-- ==== Sys2Proof/Word.lean ====
section
/-! DEFINITION. The two word types of the block: a byte of the input and a 32-bit register. -/

namespace Sys2Proof

/-- One input byte (20_memory.md R80). -/
abbrev Byte := BitVec 8

/-- One host register, and the bit cache (10_state.md R32, R42). -/
abbrev Word := BitVec 32

end Sys2Proof
end

