-- ==== Sys2Proof/Config.lean ====
section
/-! DEFINITION. The implementation parameters of 00_scope.md R9, each at the value this hardware takes, and `STEP_TIME`
of 70_reset_and_hazards.md R425. The spec leaves no instruction's result open, so there is no other free value. -/

namespace Sys2Proof.Config

/-- `W`, the bit-cache width (00_scope.md R8). -/
abbrev cacheWidth : Nat := 32

/-- `ADDR_BITS`, the width of a byte position, and so of CFG_LEN and BYTEPOS. -/
abbrev addrBits : Nat := 32

/-- `WIDTH_MAX`. -/
abbrev widthMax : Nat := 65535

/-- `HEIGHT_MAX`. -/
abbrev heightMax : Nat := 65535

/-- `COMP_MAX`, the largest component count of one line-interleaved scan. -/
abbrev compMax : Nat := 4

/-- `N_REG_CTX`. -/
abbrev nRegCtx : Nat := 365

/-- `N_RI_CTX`. -/
abbrev nRiCtx : Nat := 2

/-- `J_LEN`, the entries of the run-length order table (10_state.md R53). -/
abbrev jLen : Nat := 32

/-- `LUT_MAXK`, the largest Golomb parameter with a peek table (41_golomb.md R205). -/
abbrev lutMaxK : Nat := 15

/-- `ACC_LIMIT`, the bound on context accumulators (43_regular_mode.md R266). -/
abbrev accLimit : Nat := 16777216

/-- `ERR_LIMIT`, the bound on a decoded error magnitude (43_regular_mode.md R265). -/
abbrev errLimit : Nat := 65535

/-- `RESET_DEFAULT`. -/
abbrev resetDefault : Nat := 64

/-- `STREAM_BUF_MIN`, the smallest buffer of a streaming byte source, in bytes. No rule that computes a result reads it
(00_scope.md R10, log 20). -/
abbrev streamBufMin : Nat := 40000

/-- `STREAM_SLIDE`, the residual bytes below which a streaming source slides and refills. No rule that computes a result
reads it (00_scope.md R10, log 20). -/
abbrev streamSlide : Nat := 64

/-- `STEP_TIME`, the duration of a step, which the spec leaves open and no rule reads (70_reset_and_hazards.md R425,
93_implementation_defined.md I5, log 18). -/
opaque stepTime : Nat

end Sys2Proof.Config
end

