-- ==== Sys2Proof/Syntax.lean ====
section
/-! DEFINITION. The instruction set: every row of spec/opcode_table.json is one constructor of `Instr`, with the
operand fields the table gives it. `ParseCtx` says which form the controller parses next (30_encoding.md R111). -/

namespace Sys2Proof

/-- The byte-level forms (30_encoding.md R112 to R114), the code words of a scan (R116 to R122) and the one host
command (R126). -/
inductive Instr where
  /-- `PLAIN_BYTE`: a byte other than `0xFF`, eight data bits (R112). -/
  | plainByte (b : Byte)
  /-- `STUFFED_PAIR`: `0xFF` and then `0zzzzzzz` (R113). -/
  | stuffedPair (z : BitVec 7)
  /-- `MARK`: `0xFF` and then `1mmmmmmm`, or (`none`) a `0xFF` that is the last input byte (R114). -/
  | mark (m : Option (BitVec 7))
  /-- `REG`: regular code word, quotient `q`, `k`-bit remainder `r` (R116). -/
  | reg (q r : Nat)
  /-- `ESC`: regular escape, quotient `q`, `qbpp`-bit value `v` (R117). -/
  | esc (q v : Nat)
  /-- `RUN1`: one run bit 1 (R119). -/
  | run1
  /-- `RUN0`: run stop 0 with the tail count `t` (R120). -/
  | run0 (t : Nat)
  /-- `RI`: run-interruption code word (R121). -/
  | ri (q r : Nat)
  /-- `RIESC`: run-interruption escape (R121). -/
  | riesc (q v : Nat)
  /-- `PAD`: `n` padding bits at the end of the scan (R122). -/
  | pad (n : Nat)
  /-- `CTRL.START`: host write of register 0x00 with bit 0 set (R126). -/
  | ctrlStart
  deriving DecidableEq, Repr

/-- What the next bits are parsed as (30_encoding.md R111): the level, and the widths that come from the decoder's
state. The bits do not say this themselves. -/
inductive ParseCtx where
  /-- The next input bytes, as raw bits, not following a stuffed `0xFF`. -/
  | byteLevel
  /-- State REGULAR: Golomb parameter, `LIMIT`, `qbpp`. -/
  | regular (k limit qbpp : Nat)
  /-- State RUN_SCAN: `J[RUNIDX]`. -/
  | runScan (j : Nat)
  /-- State RUN_INTERRUPT: Golomb parameter, `glimit`, `qbpp`. -/
  | runInterrupt (k glimit qbpp : Nat)
  /-- State FINALIZE: the bits that are left. -/
  | finalize
  /-- A host write of the numbered register, its 32 bits most significant first. -/
  | hostWrite (reg : Nat)
  deriving DecidableEq, Repr

end Sys2Proof
end

