-- ==== Sys2Proof/WellFormed.lean ====
section
/-! DEFINITION. When an instruction is one the encoding of its context has: the field bounds of 30_encoding.md
R112 to R122 and R126. -/

namespace Sys2Proof

/-- The quotient from which a code word is an escape: `limit - qbpp - 1` (30_encoding.md R116, R117). -/
def escThreshold (limit qbpp : Nat) : Nat := limit - qbpp - 1

/-- Whether the form and its fields are ones that context `c` can parse. -/
def Instr.wf (c : ParseCtx) (i : Instr) : Bool :=
  match c, i with
  | .byteLevel, .plainByte b => b != 0xFF#8
  | .byteLevel, .stuffedPair _ => true
  | .byteLevel, .mark _ => true
  | .regular k limit qbpp, .reg q r => decide (q < escThreshold limit qbpp) && decide (r < 2 ^ k)
  | .regular _ limit qbpp, .esc q v => decide (escThreshold limit qbpp ≤ q) && decide (v < 2 ^ qbpp)
  | .runScan _, .run1 => true
  | .runScan j, .run0 t => decide (t < 2 ^ j)
  | .runInterrupt k glimit qbpp, .ri q r => decide (q < escThreshold glimit qbpp) && decide (r < 2 ^ k)
  | .runInterrupt _ glimit qbpp, .riesc q v => decide (escThreshold glimit qbpp ≤ q) && decide (v < 2 ^ qbpp)
  | .finalize, .pad _ => true
  | .hostWrite num, .ctrlStart => decide (num = 0)
  | _, _ => false

end Sys2Proof
end

