-- ==== Sys2Proof/Decode.lean ====
section
/-! DEFINITION. The decoder, total on any bits and rejecting by name, and after it the encoder, both written from
30_encoding.md R112 to R122 and R126. Bits stand in stream order, first bit first (00_scope.md R12). -/

namespace Sys2Proof

/-- Why the decoder reads no instruction. -/
inductive DecodeError where
  /-- The bits end before the form is complete (30_encoding.md R123, first row). -/
  | truncated
  /-- A 1 bit in the end-of-scan padding (30_encoding.md R124). -/
  | nonZeroPadding
  /-- A host write that is no command (30_encoding.md R126). -/
  | notACommand
  deriving DecidableEq, Repr

/-- The `n` low bits of `v`, most significant first (00_scope.md R12). -/
def bitsMSB : Nat → Nat → List Bool
  | 0, _ => []
  | n + 1, v => v.testBit n :: bitsMSB n v

/-- The value of a field read most significant bit first (00_scope.md R12). -/
def ofBitsMSB (bits : List Bool) : Nat := bits.foldl (fun acc b => 2 * acc + b.toNat) 0

/-- A `k`-bit field and the bits after it. -/
def readField (k : Nat) (bits : List Bool) : Option (Nat × List Bool) :=
  if bits.length < k then none else some (ofBitsMSB (bits.take k), bits.drop k)

/-- A unary quotient: the zeros before the first 1, which is read too (30_encoding.md R116). -/
def readUnary : List Bool → Option (Nat × List Bool)
  | [] => none
  | true :: rest => some (0, rest)
  | false :: rest =>
    match readUnary rest with
    | none => none
    | some (q, rest') => some (q + 1, rest')

/-- The code words `GR(k)` and `GE(limit)` (30_encoding.md R116, R117), named by the two constructors of the state
they stand in. -/
def decodeGolomb (k limit qbpp : Nat) (short escape : Nat → Nat → Instr) (bits : List Bool) :
    Except DecodeError (Instr × List Bool) :=
  match readUnary bits with
  | none => .error .truncated
  | some (q, rest) =>
    if escThreshold limit qbpp ≤ q then
      match readField qbpp rest with
      | none => .error .truncated
      | some (v, rest') => .ok (escape q v, rest')
    else
      match readField k rest with
      | none => .error .truncated
      | some (r, rest') => .ok (short q r, rest')

/-- The byte-level form that starts with byte `b`, `next` being the byte after it, if there is one
(30_encoding.md R112 to R114). -/
def decodeByteForm (b : Byte) (next : Option Byte) : Instr :=
  if b = 0xFF#8 then
    match next with
    | none => .mark none
    | some z => if z.msb then .mark (some (z.setWidth 7)) else .stuffedPair (z.setWidth 7)
  else .plainByte b

/-- The decoder. -/
def decode (c : ParseCtx) (bits : List Bool) : Except DecodeError (Instr × List Bool) :=
  match c with
  | .byteLevel =>
    match readField 8 bits with
    | none => .error .truncated
    | some (b, rest) =>
      match decodeByteForm (BitVec.ofNat 8 b) none with
      | .mark _ =>
        if rest = [] then .ok (.mark none, [])
        else
          match readField 8 rest with
          | none => .error .truncated
          | some (z, rest') => .ok (decodeByteForm (BitVec.ofNat 8 b) (some (BitVec.ofNat 8 z)), rest')
      | i => .ok (i, rest)
  | .regular k limit qbpp => decodeGolomb k limit qbpp .reg .esc bits
  | .runScan j =>
    match bits with
    | [] => .error .truncated
    | true :: rest => .ok (.run1, rest)
    | false :: rest =>
      match readField j rest with
      | none => .error .truncated
      | some (t, rest') => .ok (.run0 t, rest')
  | .runInterrupt k glimit qbpp => decodeGolomb k glimit qbpp .ri .riesc bits
  | .finalize => if bits.all (fun b => !b) then .ok (.pad bits.length, []) else .error .nonZeroPadding
  | .hostWrite reg =>
    match readField 32 bits with
    | none => .error .truncated
    | some (v, rest) => if reg = 0 ∧ v % 2 = 1 then .ok (.ctrlStart, rest) else .error .notACommand

/-- The encoder: the bits of `i` in context `c`, in stream order. Only the widths of the trailing fields come from
the context. -/
def encode (c : ParseCtx) (i : Instr) : List Bool :=
  match i with
  | .plainByte b => bitsMSB 8 b.toNat
  | .stuffedPair z => bitsMSB 8 0xFF ++ false :: bitsMSB 7 z.toNat
  | .mark none => bitsMSB 8 0xFF
  | .mark (some m) => bitsMSB 8 0xFF ++ true :: bitsMSB 7 m.toNat
  | .reg q r => List.replicate q false ++ true :: bitsMSB (remainderWidth c) r
  | .esc q v => List.replicate q false ++ true :: bitsMSB (escapeWidth c) v
  | .run1 => [true]
  | .run0 t => false :: bitsMSB (tailWidth c) t
  | .ri q r => List.replicate q false ++ true :: bitsMSB (remainderWidth c) r
  | .riesc q v => List.replicate q false ++ true :: bitsMSB (escapeWidth c) v
  | .pad n => List.replicate n false
  | .ctrlStart => bitsMSB 32 1
where
  /-- `k`, the width of a Golomb remainder (R116). -/
  remainderWidth : ParseCtx → Nat
    | .regular k _ _ => k
    | .runInterrupt k _ _ => k
    | _ => 0
  /-- `qbpp`, the width of an escape value (R117). -/
  escapeWidth : ParseCtx → Nat
    | .regular _ _ qbpp => qbpp
    | .runInterrupt _ _ qbpp => qbpp
    | _ => 0
  /-- `J[RUNIDX]`, the width of a run tail (R120). -/
  tailWidth : ParseCtx → Nat
    | .runScan j => j
    | _ => 0

/-- The instruction of a successful decoding. -/
def decoded (c : ParseCtx) (bits : List Bool) : Option Instr :=
  match decode c bits with
  | .ok (i, _) => some i
  | .error _ => none

/-- The instruction the decoder reads from `nbits` bits `w`, numbered as spec/opcode_table.json numbers them (log 10).
The table mixes levels, and the bits do not tell them apart: a 32-bit row is a host write of register 0x00, a 16-bit
row is two input bytes, the first in bits 15..8 (match `0xFF00`), an 8-bit word 0 or 1 is the one-bit form of
RUN_SCAN with `J[RUNIDX] = 0`, and any other 8-bit word is one input byte. -/
def decodeTableWord (nbits w : Nat) : Option Instr :=
  if nbits = 32 then decoded (.hostWrite 0) (bitsMSB 32 w)
  else if nbits = 16 then decoded .byteLevel (bitsMSB 16 w)
  else if nbits = 8 then
    if w < 2 then decoded (.runScan 0) (bitsMSB 1 w) else decoded .byteLevel (bitsMSB 8 w)
  else none

end Sys2Proof
end

