-- ==== Sys2Proof/Machine/State.lean ====
section
/-! DEFINITION. The state of the block and of the two parties it talks to (10_state.md R30 to R57), as plain data, the
reasons a step can stop, and the state after power-on reset. INVENTORY.md lists every field with its rule. -/

namespace Sys2Proof.Machine

/-- `STATUS.PHASE` (10_state.md R32, R39). -/
inductive Phase where
  | idle | busy | done | error
  deriving DecidableEq, Repr

/-- `FSM`, the scan controller state (10_state.md R45). -/
inductive Fsm where
  | idle | lineStart | classify | regular | runScan | runInterrupt | lineEnd | finalize | done | error
  deriving DecidableEq, Repr

/-- `STATUS.ERR` (60_exceptions.md R380). The last three belong to the outer parser and are never raised (R381). -/
inductive ErrCode where
  | none
  | invalidCompressedData
  | tooMuchCompressedData
  | parameterValueNotSupported
  | destinationBufferTooSmall
  | jpegMarkerStartByteNotFound
  | encodingNotSupported
  | unknownJpegMarkerFound
  deriving DecidableEq, Repr

/-- The interleave modes of `CFG_ILV` (10_state.md R32). -/
inductive Interleave where
  | none | line | sample | reserved
  deriving DecidableEq, Repr

/-- The host's configuration registers, each the width of its field (10_state.md R32). -/
structure Cfg where
  width : BitVec 16
  height : BitVec 16
  p : BitVec 5
  maxval : BitVec 16
  near : BitVec 8
  t1 : BitVec 16
  t2 : BitVec 16
  t3 : BitVec 16
  reset : BitVec 16
  comps : BitVec 3
  ilv : BitVec 2
  len : BitVec 32
  deriving DecidableEq, Repr

/-- The scan constants latched at START, effective values after defaults, with the derived traits and the initial
accumulator (10_state.md R38). -/
structure Scan where
  width : Nat
  height : Nat
  p : Nat
  maxval : Nat
  near : Nat
  t1 : Nat
  t2 : Nat
  t3 : Nat
  reset : Nat
  comps : Nat
  ilv : Interleave
  len : Nat
  range : Nat
  qbpp : Nat
  bpp : Nat
  limit : Nat
  a0 : Nat
  deriving DecidableEq, Repr

/-- The bit reader (10_state.md R42, R43). `pos` counts input bytes, `valid` counts cache bits. -/
structure BitReader where
  cache : Word
  valid : Nat
  pos : Nat
  afterFF : Bool
  deriving DecidableEq, Repr

/-- One regular context (10_state.md R47). -/
structure RegCtx where
  a : Nat
  b : Int
  c : Int
  n : Nat
  deriving DecidableEq, Repr

/-- One run-interruption context; `b` is held at its initial 0 (10_state.md R48, 90_conflicts.md C18). -/
structure RiCtx where
  a : Nat
  b : Int
  n : Nat
  nn : Nat
  deriving DecidableEq, Repr

/-- One value for each of the `COMP_MAX` components. -/
structure PerComp (α : Type) where
  c0 : α
  c1 : α
  c2 : α
  c3 : α
  deriving DecidableEq, Repr

/-- The two rows of one component and `ROWSEL` (10_state.md R51). A row holds columns -1 to WIDTH: column `x` stands at
list index `x + 1`. -/
structure LineBuf where
  row0 : List Nat
  row1 : List Nat
  rowSel : Bool
  deriving DecidableEq, Repr

/-- The input byte space (20_memory.md R80): the positions that hold a byte other than `0x00`, rising. A position not
listed reads as `0x00` (log 3). -/
abbrev Memory := List Host.Cell

/-- What a position that is not listed reads as (log 3). -/
abbrev Memory.unlisted : Byte := 0#8

/-- The canonical form: positions strictly rising, no byte equal to what an unlisted position reads as. -/
def Memory.wf : Memory → Bool
  | [] => true
  | [c] => c.2 != Memory.unlisted
  | c :: d :: rest => c.2 != Memory.unlisted && decide (c.1 < d.1) && Memory.wf (d :: rest)

/-- A move of the host (10_state.md R32, 70_reset_and_hazards.md R420, R423). -/
inductive HostMove where
  /-- The host lets the block take one step. -/
  | letBlockRun
  /-- The host writes the numbered register. -/
  | write (reg : Nat) (v : Word)
  /-- The host reads the numbered register. -/
  | read (reg : Nat)
  /-- The host supplies the input byte at position `i` (R423 item 2). -/
  | supply (i : BitVec 32) (b : Byte)
  /-- Power-on reset (R420). -/
  | powerOn
  deriving DecidableEq, Repr

/-- The line sink's answer to a `Deliver` call (45_scan_control.md R351). -/
inductive SinkReply where
  | ok | tooSmall
  deriving DecidableEq, Repr

/-- One `Deliver` call the sink has received (45_scan_control.md R351). -/
structure SinkCall where
  y : Nat
  row : List Nat
  pixelCount : Nat
  stride : Nat
  reply : SinkReply
  deriving DecidableEq, Repr

/-- The machine. The last five fields stand for the world outside the block (log 1, log 3, log 7, log 8). -/
structure State where
  /-- CFG_* registers (R32). -/
  cfg : Cfg
  /-- STATUS.PHASE (R39). -/
  phase : Phase
  /-- STATUS.ERR (R39). -/
  err : ErrCode
  /-- BYTEPOS (R40). -/
  bytepos : BitVec 32
  /-- LINES (R41). -/
  lines : BitVec 17
  /-- The latched scan constants (R38). -/
  scan : Scan
  /-- CACHE, VALID, POS, AFTER_FF (R42, R43). -/
  brd : BitReader
  /-- CTXR (R47). -/
  ctxr : Vector RegCtx Config.nRegCtx
  /-- CTXI, indexed by RItype (R48). -/
  ctxi : Vector RiCtx 2
  /-- RUNIDX (R50). -/
  runIdx : PerComp (Fin 32)
  /-- LB and ROWSEL (R51). -/
  lb : PerComp LineBuf
  /-- FSM (R45). -/
  fsm : Fsm
  /-- COMP (R45). -/
  comp : Fin Config.compMax
  /-- Y (R45). -/
  y : Nat
  /-- X (R45). -/
  x : Nat
  /-- The pseudocode's `cnt` of 44_run_mode.md R301 between two run bits (log 9). -/
  runCnt : Nat
  /-- The input byte space (R80). -/
  input : Memory
  /-- The host's pending moves, next first. -/
  host : List HostMove
  /-- The sink's coming answers, next first; an empty list answers ok. -/
  sinkReplies : List SinkReply
  /-- The calls the sink has received, oldest first. -/
  delivered : List SinkCall
  /-- What the host's last register read returned. -/
  readData : Word
  deriving DecidableEq, Repr

/-- Why a step stops with a fault. No instruction raises one; errors of the block are next states
(60_exceptions.md R383). -/
inductive Fault where
  /-- Raised by `step` when the pending host move changes a byte of the range a running scan has borrowed: the spec
  leaves the scan's results unspecified and gives the host no such move (70_reset_and_hazards.md R431). Safe: the
  model stops where the hardware goes on with unspecified results (log 6). -/
  | inputChangedWhileBusy
  deriving DecidableEq, Repr

/-- Why a step is refused. -/
inductive Refusal where
  /-- Raised by an arm of `exec` whose instruction has no meaning yet. Safe: the model stops. No arm does. -/
  | notModelled (mnemonic : String)
  deriving DecidableEq, Repr

/-- `STATUS.ERR` numbers (60_exceptions.md R380). -/
def ErrCode.number : ErrCode → Nat
  | .none => 0
  | .invalidCompressedData => 1
  | .tooMuchCompressedData => 2
  | .parameterValueNotSupported => 3
  | .destinationBufferTooSmall => 4
  | .jpegMarkerStartByteNotFound => 5
  | .encodingNotSupported => 6
  | .unknownJpegMarkerFound => 7

/-- `STATUS.PHASE` numbers (10_state.md R32). -/
def Phase.number : Phase → Nat
  | .idle => 0
  | .busy => 1
  | .done => 2
  | .error => 3

/-- Power-on reset (10_state.md R56, 70_reset_and_hazards.md R420). The spec gives every configuration register,
PHASE, ERR, BYTEPOS, LINES and FSM; it leaves the rest unspecified, and the model names zeros for it (log 4, log 5).
No host move is pending and no input byte is listed. -/
def State.reset : State where
  cfg := ⟨0, 0, 0, 0, 0, 0, 0, 0, 0, 0, 0, 0⟩
  phase := .idle
  err := .none
  bytepos := 0
  lines := 0
  scan := ⟨0, 0, 0, 0, 0, 0, 0, 0, 0, 0, .none, 0, 0, 0, 0, 0, 0⟩
  brd := ⟨0, 0, 0, false⟩
  ctxr := Vector.replicate Config.nRegCtx ⟨0, 0, 0, 0⟩
  ctxi := Vector.replicate 2 ⟨0, 0, 0, 0⟩
  runIdx := ⟨0, 0, 0, 0⟩
  lb := ⟨⟨[], [], false⟩, ⟨[], [], false⟩, ⟨[], [], false⟩, ⟨[], [], false⟩⟩
  fsm := .idle
  comp := 0
  y := 0
  x := 0
  runCnt := 0
  input := []
  host := []
  sinkReplies := []
  delivered := []
  readData := 0

end Sys2Proof.Machine
end

