-- ==== Sys2Proof/Machine/Ops.lean ====
section
/-! DEFINITION. The named operations over the input bytes, the per-component memories, the line buffers, the context
memories and the host's registers, and taking an error, the block's one exception (60_exceptions.md R383). -/

namespace Sys2Proof.Machine

/-! ## The input byte space (20_memory.md R80) -/

/-- `InByte(i)` of 00_scope.md R13: the byte at position `i`. -/
def Memory.read : Memory → Nat → Byte
  | [], _ => Memory.unlisted
  | (a, b) :: rest, i => if a = i then b else Memory.read rest i

/-- Supplies the byte at position `i`, keeping the canonical form. -/
def Memory.write : Memory → Nat → Byte → Memory
  | [], i, b => if b = Memory.unlisted then [] else [(i, b)]
  | (a, c) :: rest, i, b =>
    if a < i then (a, c) :: Memory.write rest i b
    else if a = i then (if b = Memory.unlisted then rest else (i, b) :: rest)
    else if b = Memory.unlisted then (a, c) :: rest else (i, b) :: (a, c) :: rest

/-! ## One value per component -/

/-- The entry of component `c`. -/
def PerComp.get {α : Type} (v : PerComp α) (c : Fin Config.compMax) : α :=
  match c with
  | 0 => v.c0
  | 1 => v.c1
  | 2 => v.c2
  | 3 => v.c3

/-- Replaces the entry of component `c`. -/
def PerComp.set {α : Type} (v : PerComp α) (c : Fin Config.compMax) (a : α) : PerComp α :=
  match c with
  | 0 => { v with c0 := a }
  | 1 => { v with c1 := a }
  | 2 => { v with c2 := a }
  | 3 => { v with c3 := a }

/-- Applies `f` to the entries of the components below `n`. -/
def PerComp.mapBelow {α : Type} (n : Nat) (f : α → α) (v : PerComp α) : PerComp α where
  c0 := if 0 < n then f v.c0 else v.c0
  c1 := if 1 < n then f v.c1 else v.c1
  c2 := if 2 < n then f v.c2 else v.c2
  c3 := if 3 < n then f v.c3 else v.c3

/-- The same entry for every component. -/
def PerComp.same {α : Type} (a : α) : PerComp α := ⟨a, a, a, a⟩

/-- The entries of the components below `n`, in order. -/
def PerComp.below {α : Type} (n : Nat) (v : PerComp α) : List α := [v.c0, v.c1, v.c2, v.c3].take n

/-! ## Line buffers (10_state.md R51) -/

/-- The row with the number `ROWSEL` holds: `CUR(c)`. -/
def LineBuf.cur (b : LineBuf) : List Nat := if b.rowSel then b.row1 else b.row0

/-- The other row: `PREV(c)`. -/
def LineBuf.prev (b : LineBuf) : List Nat := if b.rowSel then b.row0 else b.row1

/-- Replaces `CUR(c)`. -/
def LineBuf.setCur (b : LineBuf) (row : List Nat) : LineBuf :=
  if b.rowSel then { b with row1 := row } else { b with row0 := row }

/-- Replaces `PREV(c)`. -/
def LineBuf.setPrev (b : LineBuf) (row : List Nat) : LineBuf :=
  if b.rowSel then { b with row0 := row } else { b with row1 := row }

/-- The swap after a line: the toggle of `ROWSEL` (45_scan_control.md R348). -/
def LineBuf.toggle (b : LineBuf) : LineBuf := { b with rowSel := !b.rowSel }

/-- The sample at list index `i` of a row, which is column `i - 1` (log 25). -/
def sampleAt (row : List Nat) (i : Nat) : Nat := row.getD i 0

/-- Writes `n` samples of value `v` from list index `start` (44_run_mode.md R303). -/
def fillRow (row : List Nat) (start : Nat) : Nat → Nat → List Nat
  | 0, _ => row
  | n + 1, v => fillRow (row.set start v) (start + 1) n v

/-- A row of `WIDTH + 2` zero samples (10_state.md R57). -/
def zeroRow (width : Nat) : List Nat := List.replicate (width + 2) 0

/-- The line buffers of the component being decoded. -/
def State.line (s : State) : LineBuf := s.lb.get s.comp

/-! ## State updates shared by the meanings -/

/-- The state after the bit reader has moved. -/
def State.setBrd (s : State) (r : BitReader) : State := { s with brd := r }

/-- The controller's next state. -/
def State.setFsm (s : State) (f : Fsm) : State := { s with fsm := f }

/-- `CTXR[q] ← ctx`. -/
def State.setCtxr (s : State) (q : Fin Config.nRegCtx) (ctx : RegCtx) : State :=
  { s with ctxr := s.ctxr.set q.val ctx q.isLt }

/-- `CTXI[t] ← ctx`. -/
def State.setCtxi (s : State) (t : Fin 2) (ctx : RiCtx) : State :=
  { s with ctxi := s.ctxi.set t.val ctx t.isLt }

/-- `RUNIDX[COMP] ← i`. -/
def State.setRunIdx (s : State) (i : Fin 32) : State := { s with runIdx := s.runIdx.set s.comp i }

/-- `CUR(COMP)[X] ← v ; X ← X + 1` (43_regular_mode.md R271, 44_run_mode.md R318). -/
def State.writeSample (s : State) (v : Nat) : State :=
  { s with lb := s.lb.set s.comp (s.line.setCur (s.line.cur.set (s.x + 1) v)), x := s.x + 1 }

/-- `CUR(COMP)[X + i] ← v` for `i < n ; X ← X + n` (44_run_mode.md R301, R303). -/
def State.fillRun (s : State) (n v : Nat) : State :=
  { s with lb := s.lb.set s.comp (s.line.setCur (fillRow s.line.cur (s.x + 1) n v)), x := s.x + n }

/-- Takes the error `code`: the scan is over, nothing else of the state changes (60_exceptions.md R383, R384). This is
the block's only exception. There is no handler, no saved state and no return (R387): the host leaves it by a new
START. -/
def raiseError (code : ErrCode) (s : State) : State := { s with fsm := .error, phase := .error, err := code }

/-! ## The host's registers (10_state.md R32) -/

/-- What the host reads from register `num`: fields not listed and register numbers not listed read as 0, the
write-only CTRL reads as 0. -/
def regRead (num : Nat) (s : State) : Word :=
  match num with
  | 0x01 => s.cfg.width.setWidth 32
  | 0x02 => s.cfg.height.setWidth 32
  | 0x03 => s.cfg.p.setWidth 32
  | 0x04 => s.cfg.maxval.setWidth 32
  | 0x05 => s.cfg.near.setWidth 32
  | 0x06 => s.cfg.t1.setWidth 32
  | 0x07 => s.cfg.t2.setWidth 32
  | 0x08 => s.cfg.t3.setWidth 32
  | 0x09 => s.cfg.reset.setWidth 32
  | 0x0A => s.cfg.comps.setWidth 32
  | 0x0B => s.cfg.ilv.setWidth 32
  | 0x0C => s.cfg.len
  | 0x10 => BitVec.ofNat 32 (s.phase.number + 256 * s.err.number)
  | 0x11 => s.bytepos
  | 0x12 => s.lines.setWidth 32
  | _ => 0

/-- The configuration registers after the host has written `v` to register `num`. Reserved bits, read-only registers
and register numbers not listed ignore the write; START is not here but an instruction. -/
def cfgWrite (num : Nat) (v : Word) (c : Cfg) : Cfg :=
  match num with
  | 0x01 => { c with width := v.setWidth 16 }
  | 0x02 => { c with height := v.setWidth 16 }
  | 0x03 => { c with p := v.setWidth 5 }
  | 0x04 => { c with maxval := v.setWidth 16 }
  | 0x05 => { c with near := v.setWidth 8 }
  | 0x06 => { c with t1 := v.setWidth 16 }
  | 0x07 => { c with t2 := v.setWidth 16 }
  | 0x08 => { c with t3 := v.setWidth 16 }
  | 0x09 => { c with reset := v.setWidth 16 }
  | 0x0A => { c with comps := v.setWidth 3 }
  | 0x0B => { c with ilv := v.setWidth 2 }
  | 0x0C => { c with len := v }
  | _ => c

/-- The state after a host write that is no START. -/
def regWrite (num : Nat) (v : Word) (s : State) : State := { s with cfg := cfgWrite num v s.cfg }

/-- The state after a host read: the value goes to the host. -/
def hostRead (num : Nat) (s : State) : State := { s with readData := regRead num s }

/-- The state after the host has supplied an input byte. -/
def supplyByte (i : BitVec 32) (b : Byte) (s : State) : State := { s with input := s.input.write i.toNat b }

/-- Power-on reset (70_reset_and_hazards.md R420). The world outside the block keeps what it holds: the input bytes,
the host's pending moves and last read, the sink's answers and the calls it has received (log 17). -/
def powerOnReset (s : State) : State :=
  { State.reset with
    input := s.input, host := s.host, sinkReplies := s.sinkReplies, delivered := s.delivered, readData := s.readData }

end Sys2Proof.Machine
end

