-- ==== Sys2Proof/Machine/BitReader.lean ====
section
/-! DEFINITION. The bit reader with its marker-escape cache (unit BRD, 40_bitreader.md), over the input bytes `mem` and
the latched `len`. An operation that raises answers with the reader as it was at the raise (60_exceptions.md R383). -/

namespace Sys2Proof.Machine

/-- How a bit-reader operation ends. -/
inductive Read (α : Type) where
  /-- It returns a value. -/
  | done (a : α) (r : BitReader)
  /-- It raises an error code. -/
  | raised (code : ErrCode) (r : BitReader)
  deriving DecidableEq, Repr

/-- Sequencing: a raise ends the procedure (00_scope.md R14). -/
def Read.andThen {α β : Type} (m : Read α) (f : α → BitReader → Read β) : Read β :=
  match m with
  | .done a r => f a r
  | .raised code r => .raised code r

/-! ## Loading bytes (R151, R152) -/

/-- Room for one byte: `VALID ≤ W - 8` (R151). -/
def BitReader.hasRoom (r : BitReader) : Bool := decide (r.valid ≤ Config.cacheWidth - 8)

/-- Puts the `n` bits of `bits` below the valid bits and moves to the next input byte (R151). -/
def loadBits (bits n : Nat) (afterFF : Bool) (r : BitReader) : BitReader where
  cache := r.cache ||| (BitVec.ofNat 32 bits <<< (Config.cacheWidth - r.valid - n))
  valid := r.valid + n
  pos := r.pos + 1
  afterFF := afterFF

/-- Loads a plain byte, if there is room (R151, 30_encoding.md R112). -/
def loadPlain (b : Byte) (r : BitReader) : BitReader :=
  if r.hasRoom then loadBits b.toNat 8 r.afterFF r else r

/-- Loads the follower of a stuffed `0xFF`: its leading 1 is the eighth 1 of the `0xFF` (R151, R152). -/
def loadFollower (z : BitVec 7) (r : BitReader) : BitReader :=
  if r.hasRoom then loadBits (0x80 ||| z.toNat) 8 false r else r

/-- Loads the `0xFF` of a stuffed pair: seven 1 bits (R151). -/
def loadStuffedFF (r : BitReader) : BitReader :=
  if r.hasRoom then loadBits 0x7F 7 true r else r

/-- Loads what there is room for of a stuffed pair, from where the reader stands in it: the cache may fill between the
two bytes (R152). -/
def loadStuffedPair (z : BitVec 7) (r : BitReader) : BitReader :=
  if r.afterFF then loadFollower z r
  else if r.hasRoom then loadFollower z (loadStuffedFF r) else r

/-- The byte-level form at `POS`. After a stuffed `0xFF` it is the rest of the pair, `0x80 | b` (R151). -/
def byteFormAt (mem : Memory) (len : Nat) (r : BitReader) : Instr :=
  if r.afterFF then .stuffedPair ((mem.read r.pos).setWidth 7)
  else decodeByteForm (mem.read r.pos) (if r.pos + 1 < len then some (mem.read (r.pos + 1)) else none)

/-- The loop of `Refill` (R151). Each turn loads at least 7 bits, so `W` turns are more than there can be. -/
def refillLoop (mem : Memory) (len : Nat) : Nat → BitReader → BitReader
  | 0, r => r
  | turns + 1, r =>
    if r.hasRoom && decide (r.pos < len) then
      match byteFormAt mem len r with
      | .plainByte b => refillLoop mem len turns (loadPlain b r)
      | .stuffedPair z => refillLoop mem len turns (loadStuffedPair z r)
      | _ => r
    else r

/-- The end of `Refill`: an empty cache raises (R151). -/
def refillResult (r : BitReader) : Read Unit :=
  if r.valid = 0 then .raised .invalidCompressedData r else .done () r

/-- `Refill()` (R151). -/
def refill (mem : Memory) (len : Nat) (r : BitReader) : Read Unit :=
  refillResult (refillLoop mem len Config.cacheWidth r)

/-! ## Read operations -/

/-- The top `k` bits of the cache, `CACHE[W-1 : W-k]`. -/
def topBits (k : Nat) (r : BitReader) : Nat := (r.cache >>> (Config.cacheWidth - k)).toNat

/-- `Skip(n)` (R161). -/
def skip (n : Nat) (r : BitReader) : BitReader := { r with cache := r.cache <<< n, valid := r.valid - n }

/-- Takes `k` bits that are in the cache, or raises (R156). -/
def takeBits (k : Nat) (r : BitReader) : Read Nat :=
  if r.valid < k then .raised .invalidCompressedData r else .done (topBits k r) (skip k r)

/-- `ReadValue(k)` (R156). -/
def readValue (mem : Memory) (len k : Nat) (r : BitReader) : Read Nat :=
  if k = 0 then .done 0 r
  else if r.valid < k then (refill mem len r).andThen fun _ r' => takeBits k r'
  else takeBits k r

/-- `ReadBit()` (R157). -/
def readBit (mem : Memory) (len : Nat) (r : BitReader) : Read Nat := readValue mem len 1 r

/-- `PeekByte()` (R158). -/
def peekByte (mem : Memory) (len : Nat) (r : BitReader) : Read Nat :=
  if r.valid < 8 then (refill mem len r).andThen fun _ r' => .done (topBits 8 r') r'
  else .done (topBits 8 r) r

/-- The loop of `ReadHighBits` (R159): `q` zeros counted so far. -/
def readHighBitsLoop (mem : Memory) (len : Nat) : Nat → Nat → BitReader → Read Nat
  | 0, _, r => .raised .invalidCompressedData r
  | turns + 1, q, r =>
    (readBit mem len r).andThen fun bit r' =>
      if bit = 1 then .done q r' else readHighBitsLoop mem len turns (q + 1) r'

/-- A bound on the bits the reader can still deliver (70_reset_and_hazards.md R427). -/
def bitBound (len : Nat) (r : BitReader) : Nat := r.valid + 8 * (len - r.pos)

/-- `ReadHighBits()` (R159). It reads bit by bit and refills only when the cache is empty (R155); after `bitBound`
bits the stream is exhausted and `ReadBit` itself has raised. -/
def readHighBits (mem : Memory) (len : Nat) (r : BitReader) : Read Nat :=
  readHighBitsLoop mem len (bitBound len r + 1) 0 r

/-- `ReadLongValue(k)` (R160). The scan decoder never calls it. -/
def readLongValue (mem : Memory) (len k : Nat) (r : BitReader) : Read Nat :=
  if k ≤ 24 then readValue mem len k r
  else
    (readValue mem len (k - 24) r).andThen fun hi r' =>
      (readValue mem len 24 r').andThen fun lo r'' => .done (hi <<< 24 ||| lo) r''

/-! ## End of scan and position recovery -/

/-- `NextIsFF()` (R162). -/
def nextIsFF (mem : Memory) (len : Nat) (r : BitReader) : Bool :=
  decide (r.pos < len) && mem.read r.pos == 0xFF#8

/-- The last test of `Finalize`: no 1 among the unconsumed bits (R163). -/
def checkPadding (r : BitReader) : Read Unit :=
  if r.cache = 0 then .done () r else .raised .tooMuchCompressedData r

/-- `Finalize()` (R163). -/
def finalize (mem : Memory) (len : Nat) (r : BitReader) : Read Unit :=
  if nextIsFF mem len r then checkPadding r
  else
    (readBit mem len r).andThen fun _ r' =>
      if nextIsFF mem len r' then checkPadding r' else .raised .tooMuchCompressedData r'

/-- The bits byte `p` contributed, 7 for a stuffed `0xFF` (R166). -/
def contributed (mem : Memory) (p : Nat) : Nat := if mem.read p = 0xFF#8 then 7 else 8

/-- The loop of `CurrentBytePosition` (R166): `v` bits not accounted for, `p` the byte position reached. Each turn
accounts for at least 7 bits. -/
def bytePositionLoop (mem : Memory) : Nat → Nat → Nat → Nat
  | 0, _, p => p
  | turns + 1, v, p =>
    if v = 0 then p
    else if v < contributed mem (p - 1) then p
    else bytePositionLoop mem turns (v - contributed mem (p - 1)) (p - 1)

/-- `CurrentBytePosition()` (R166). -/
def currentBytePosition (mem : Memory) (r : BitReader) : Nat := bytePositionLoop mem (r.valid + 1) r.valid r.pos

/-! ## The bit stream of an input (20_memory.md R88 to R90): what the operations above are held against -/

/-- A marker, or a `0xFF` that is the last byte, starts at position `i` (R88). -/
def markerAt (mem : Memory) (len i : Nat) : Bool :=
  mem.read i == 0xFF#8 && (decide (i + 1 = len) || (mem.read (i + 1)).msb)

/-- The least marker position at or after `i`, looking at `n` positions. -/
def markerFrom (mem : Memory) (len : Nat) : Nat → Nat → Nat
  | 0, i => i
  | n + 1, i => if markerAt mem len i then i else markerFrom mem len n (i + 1)

/-- The marker position `M` of the input (R88). -/
def markerPos (mem : Memory) (len : Nat) : Nat := markerFrom mem len len 0

/-- The contribution of byte `i < M` to the bit stream (R89). -/
def contribution (mem : Memory) (i : Nat) : List Bool :=
  if 0 < i ∧ mem.read (i - 1) = 0xFF#8 then true :: bitsMSB 7 (mem.read i).toNat
  else if mem.read i = 0xFF#8 then List.replicate 7 true
  else bitsMSB 8 (mem.read i).toNat

/-- The contributions of `n` bytes from position `i`. -/
def contributions (mem : Memory) : Nat → Nat → List Bool
  | 0, _ => []
  | n + 1, i => contribution mem i ++ contributions mem n (i + 1)

/-- The bit stream `S` (R90). -/
def bitStream (mem : Memory) (len : Nat) : List Bool := contributions mem (markerPos mem len) 0

/-- The loaded and not yet consumed bits, `CACHE[W-1 : W-VALID]` (10_state.md R42). -/
def cachedBits (r : BitReader) : List Bool := bitsMSB r.valid (topBits r.valid r)

/-- The bits of the stream that are not consumed yet (R150): those in the cache, then the contributions of bytes
POS to M - 1. -/
def bitsLeft (mem : Memory) (len : Nat) (r : BitReader) : List Bool :=
  cachedBits r ++ contributions mem (markerPos mem len - r.pos) r.pos

/-! ## The fast path (R154), an accelerator -/

/-- `NEXT_FF` (10_state.md R44), computed: the position of the next `0xFF` at or after `i`, or `i + n`. -/
def nextFFFrom (mem : Memory) : Nat → Nat → Nat
  | 0, i => i
  | n + 1, i => if mem.read i = 0xFF#8 then i else nextFFFrom mem n (i + 1)

/-- `NEXT_FF` of a reader (10_state.md R44). -/
def nextFF (mem : Memory) (len : Nat) (r : BitReader) : Nat := nextFFFrom mem (len - r.pos) r.pos

/-- The value of `n` bytes from position `i`, the first in the most significant place (20_memory.md R84). -/
def groupValue (mem : Memory) : Nat → Nat → Nat
  | 0, _ => 0
  | n + 1, i => (mem.read i).toNat * 256 ^ n + groupValue mem n (i + 1)

/-- One wide load of `⌊(W - VALID) / 8⌋` bytes (R154). -/
def fastRefill (mem : Memory) (r : BitReader) : BitReader where
  cache := r.cache ||| (BitVec.ofNat 32 (groupValue mem ((Config.cacheWidth - r.valid) / 8) r.pos)
    <<< (Config.cacheWidth - r.valid - 8 * ((Config.cacheWidth - r.valid) / 8)))
  valid := r.valid + 8 * ((Config.cacheWidth - r.valid) / 8)
  pos := r.pos + (Config.cacheWidth - r.valid) / 8
  afterFF := r.afterFF

end Sys2Proof.Machine
end

