-- ==== Sys2Proof/Machine/ByteForms.lean ====
section
/-! DEFINITION. The meanings of the byte-level forms PLAIN_BYTE, STUFFED_PAIR and MARK: what `Refill` does with each
(40_bitreader.md R151, 30_encoding.md R112 to R114). The machine runs them inside the refills of a code word. -/

namespace Sys2Proof.Machine

/-- `PLAIN_BYTE`: its eight bits enter the cache, most significant first. -/
def execPlainByte (b : Byte) (s : State) : Host.Outcome State Fault Refusal :=
  .next (s.setBrd (loadPlain b s.brd))

/-- `STUFFED_PAIR`: seven 1 bits, then `1 z[6:0]`; what does not fit waits for the next refill with AFTER_FF set. -/
def execStuffedPair (z : BitVec 7) (s : State) : Host.Outcome State Fault Refusal :=
  .next (s.setBrd (loadStuffedPair z s.brd))

/-- `MARK`: nothing is loaded, whatever the marker is (30_encoding.md R114), POS stays at the `0xFF`, and the refill
ends: with an empty cache it raises. -/
def execMark (_m : Option (BitVec 7)) (s : State) : Host.Outcome State Fault Refusal :=
  match refillResult s.brd with
  | .done _ _ => .next s
  | .raised code _ => .next (raiseError code s)

end Sys2Proof.Machine
end

