-- ==== Sys2Proof/Machine/Traits.lean ====
section
/-! DEFINITION. The numeric traits, the default thresholds, the legality of a configuration, the median-edge predictor
and the reconstruction (units TRT and PRD: 42_traits_predictor.md; 10_state.md R34, R37; 43_regular_mode.md R270).
Datapath arithmetic is on integers (00_scope.md R11). -/

namespace Sys2Proof.Machine

/-- `⌈log2 n⌉` for `n ≥ 1`: the least `x` with `2^x ≥ n` (00_scope.md R11). -/
def ceilLog2 (n : Nat) : Nat := if n ≤ 1 then 0 else (n - 1).log2 + 1

/-- `clamp(v, lo, hi)` (00_scope.md R11). -/
def clamp (v lo hi : Int) : Int := min (max v lo) hi

/-! ## Traits (R220) -/

/-- `RANGE`. -/
def traitRange (maxval near : Nat) : Nat := (maxval + 2 * near) / (2 * near + 1) + 1

/-- `qbpp`. -/
def traitQbpp (range : Nat) : Nat := ceilLog2 range

/-- `bpp`. -/
def traitBpp (maxval : Nat) : Nat := max 2 (ceilLog2 (maxval + 1))

/-- `LIMIT`. -/
def traitLimit (bpp : Nat) : Nat := 2 * (bpp + max 8 bpp)

/-- `A0`, the initial accumulator (45_scan_control.md R340). -/
def initialA (range : Nat) : Nat := max 2 ((range + 32) >>> 6)

/-- `dequantize(qe)` (R222). -/
def dequantize (near : Nat) (qe : Int) : Int := qe * (2 * near + 1)

/-- `correct_prediction(p)` (R223). -/
def correctPrediction (maxval : Nat) (p : Int) : Int := clamp p 0 maxval

/-! ## Default thresholds (R224) -/

/-- `CLAMP(i, j)` of R224. -/
def thresholdClamp (maxval i j : Nat) : Nat := if maxval < i ∨ i < j then j else i

/-- The default `(T1, T2, T3)`. -/
def defaultThresholds (maxval near : Nat) : Nat × Nat × Nat :=
  if 128 ≤ maxval then
    let f := (min maxval 4095 + 128) >>> 8
    let t1 := thresholdClamp maxval (f * (3 - 2) + 2 + 3 * near) (near + 1)
    let t2 := thresholdClamp maxval (f * (7 - 3) + 3 + 5 * near) t1
    (t1, t2, thresholdClamp maxval (f * (21 - 4) + 4 + 7 * near) t2)
  else
    let f := 256 / (maxval + 1)
    let t1 := thresholdClamp maxval (max 2 (3 / f + 3 * near)) (near + 1)
    let t2 := thresholdClamp maxval (max 3 (7 / f + 5 * near)) t1
    (t1, t2, thresholdClamp maxval (max 4 (21 / f + 7 * near)) t2)

/-- A register value, or the default where it is 0 (10_state.md R34). -/
def orDefault (v d : Nat) : Nat := if v = 0 then d else v

/-- The interleave mode a `CFG_ILV` value names (10_state.md R32). -/
def Interleave.ofBits (v : BitVec 2) : Interleave :=
  match v with
  | 0#2 => .none
  | 1#2 => .line
  | 2#2 => .sample
  | 3#2 => .reserved

/-- The scan constants latched from the configuration registers: effective values, traits and `A0` (10_state.md R34,
R38; 70_reset_and_hazards.md R421 item 1). -/
def latch (c : Cfg) : Scan :=
  let maxval := orDefault c.maxval.toNat (2 ^ c.p.toNat - 1)
  let near := c.near.toNat
  let ts := defaultThresholds maxval near
  let range := traitRange maxval near
  let bpp := traitBpp maxval
  { width := c.width.toNat
    height := c.height.toNat
    p := c.p.toNat
    maxval := maxval
    near := near
    t1 := orDefault c.t1.toNat ts.1
    t2 := orDefault c.t2.toNat ts.2.1
    t3 := orDefault c.t3.toNat ts.2.2
    reset := orDefault c.reset.toNat Config.resetDefault
    comps := c.comps.toNat
    ilv := Interleave.ofBits c.ilv
    len := c.len.toNat
    range := range
    qbpp := traitQbpp range
    bpp := bpp
    limit := traitLimit bpp
    a0 := initialA range }

/-- The latched values are legal: the ranges of 10_state.md R32 on the effective values, and the refused interleave
modes (R37, 45_scan_control.md R343). -/
def Scan.legal (p : Scan) : Bool :=
  decide (1 ≤ p.width ∧ p.width ≤ Config.widthMax) &&
  decide (1 ≤ p.height ∧ p.height ≤ Config.heightMax) &&
  decide (2 ≤ p.p ∧ p.p ≤ 16) &&
  decide (1 ≤ p.maxval ∧ p.maxval ≤ 2 ^ p.p - 1) &&
  decide (p.near ≤ min 255 (p.maxval / 2)) &&
  decide (p.near + 1 ≤ p.t1 ∧ p.t1 ≤ p.maxval) &&
  decide (p.t1 ≤ p.t2 ∧ p.t2 ≤ p.maxval) &&
  decide (p.t2 ≤ p.t3 ∧ p.t3 ≤ p.maxval) &&
  decide (3 ≤ p.reset ∧ p.reset ≤ max 255 p.maxval) &&
  decide (1 ≤ p.comps ∧ p.comps ≤ Config.compMax) &&
  decide (p.ilv = .line ∨ (p.ilv = .none ∧ p.comps = 1))

/-! ## Prediction and reconstruction -/

/-- The median-edge predictor (R245). -/
def med (ra rb rc : Int) : Int :=
  if max ra rb ≤ rc then min ra rb
  else if rc ≤ min ra rb then max ra rb
  else ra + rb - rc

/-- `Reconstruct(Px, E)` (43_regular_mode.md R270): dequantise, add, wrap once by `RANGE·(2·NEAR+1)`, clamp. -/
def reconstruct (p : Scan) (px e : Int) : Int :=
  let v := px + dequantize p.near e
  let w :=
    if v < -(p.near : Int) then v + p.range * (2 * p.near + 1)
    else if p.maxval + p.near < v then v - p.range * (2 * p.near + 1)
    else v
  clamp w 0 p.maxval

/-! ## The encoder's error mapping, which the decoder inverts and does not execute (R228) -/

/-- `quantize(e)`. -/
def quantizeError (near : Nat) (e : Int) : Int := e.sign * (((e.natAbs + near) / (2 * near + 1) : Nat) : Int)

/-- `modulo_range(e)`: both loops add or subtract `RANGE` until the error lies in
`[-⌊RANGE/2⌋, ⌈RANGE/2⌉ - 1]`, so the result is the one representative there. -/
def moduloRange (range : Nat) (e : Int) : Int :=
  if (((range + 1) / 2 : Nat) : Int) ≤ e % range then e % range - range else e % range

/-- `compute_error_value(e)`. -/
def computeErrorValue (p : Scan) (e : Int) : Int := moduloRange p.range (quantizeError p.near e)

end Sys2Proof.Machine
end

