-- ==== Sys2Proof/Machine/Flags.lean ====
section
/-! DEFINITION. The two per-sample flags of the block, SIGN and RItype (10_state.md R46), and what they are computed
from: the neighbours, the gradients, their quantisation and the context number (45_scan_control.md R341,
42_traits_predictor.md R229 to R241, 44_run_mode.md R310, R312). No flag survives a sample. -/

namespace Sys2Proof.Machine

/-- The neighbours of a sample (45_scan_control.md R341). -/
structure Neighbours where
  ra : Int
  rb : Int
  rc : Int
  rd : Int
  deriving DecidableEq, Repr

/-- `Neighbours(COMP, X)` (45_scan_control.md R341). Column `x` stands at list index `x + 1`. -/
def neighbours (s : State) : Neighbours where
  ra := sampleAt s.line.cur s.x
  rb := sampleAt s.line.prev (s.x + 1)
  rc := sampleAt s.line.prev s.x
  rd := sampleAt s.line.prev (s.x + 2)

/-- The gradient quantiser (42_traits_predictor.md R231). -/
def quantize (p : Scan) (d : Int) : Int :=
  if d ≤ -(p.t3 : Int) then -4
  else if d ≤ -(p.t2 : Int) then -3
  else if d ≤ -(p.t1 : Int) then -2
  else if d < -(p.near : Int) then -1
  else if d ≤ p.near then 0
  else if d < p.t1 then 1
  else if d < p.t2 then 2
  else if d < p.t3 then 3
  else 4

/-- The quantised gradients `Q1, Q2, Q3` (42_traits_predictor.md R230, R231). -/
def quantised (p : Scan) (n : Neighbours) : Int × Int × Int :=
  (quantize p (n.rd - n.rb), quantize p (n.rb - n.rc), quantize p (n.rc - n.ra))

/-- The run condition `Q1 = Q2 = Q3 = 0` (42_traits_predictor.md R240, 45_scan_control.md R346). -/
def runCondition (q : Int × Int × Int) : Bool := q.1 == 0 && q.2.1 == 0 && q.2.2 == 0

/-- `qs = 81·Q1 + 9·Q2 + Q3` (42_traits_predictor.md R240). -/
def contextSum (q : Int × Int × Int) : Int := 81 * q.1 + 9 * q.2.1 + q.2.2

/-- `SIGN` of a regular sample (42_traits_predictor.md R240). -/
def contextSign (q : Int × Int × Int) : Int := if contextSum q < 0 then -1 else 1

/-- The context number `Q = |qs|` (42_traits_predictor.md R240). For quantised gradients `|qs| ≤ 364`, so it is the
number itself. -/
def contextNumber (q : Int × Int × Int) : Fin Config.nRegCtx := Fin.ofNat _ (contextSum q).natAbs

/-- `is_near(a, b)` (42_traits_predictor.md R229). -/
def isNear (near : Nat) (a b : Int) : Bool := decide ((a - b).natAbs ≤ near)

/-- `RItype` (44_run_mode.md R310). -/
def riType (p : Scan) (n : Neighbours) : Fin 2 := if isNear p.near n.ra n.rb then 1 else 0

/-- The prediction of a run-interruption sample (44_run_mode.md R312). -/
def riPrediction (t : Fin 2) (n : Neighbours) : Int := if t = 1 then n.ra else n.rb

/-- `SIGN` of a run-interruption sample (44_run_mode.md R312). -/
def riSign (t : Fin 2) (n : Neighbours) : Int := if t = 0 ∧ n.rb < n.ra then -1 else 1

end Sys2Proof.Machine
end

