-- ==== Sys2Proof/Machine/Operands.lean ====
section
/-! DEFINITION. Operand forms: the tables J and GLUT, the Golomb parameter, reading a code word from the bit reader
(unit GRD, 41_golomb.md), and assembling its value (30_encoding.md R116 to R121, 43_regular_mode.md R261 to R264,
44_run_mode.md R313, R314). -/

namespace Sys2Proof.Machine

/-- The run-length order table `J[0..31]` (10_state.md R53). -/
def runOrder : List Nat :=
  [0, 0, 0, 0, 1, 1, 1, 1, 2, 2, 2, 2, 3, 3, 3, 3, 4, 4, 5, 5, 6, 6, 7, 7, 8, 9, 10, 11, 12, 13, 14, 15]

/-- `J[i]`. -/
def jOf (i : Fin 32) : Nat := runOrder.getD i.val 0

/-- `J[RUNIDX[COMP]]`. -/
def State.j (s : State) : Nat := jOf (s.runIdx.get s.comp)

/-- The loop of `GolombK` (43_regular_mode.md R261). -/
def golombKLoop (n a : Nat) : Nat → Nat → Nat
  | 0, k => k
  | turns + 1, k => if n <<< k < a then golombKLoop n a turns (k + 1) else k

/-- `GolombK(N, A)`: the least `k` with `N·2^k ≥ A` (43_regular_mode.md R261). With `N ≥ 1` the loop ends within
`log2 A + 1` turns. -/
def golombK (n a : Nat) : Nat := golombKLoop n a (a.log2 + 1) 0

/-! ## Peek tables (41_golomb.md R206) -/

/-- Leading zeros of the low `n` bits of `v`. -/
def leadingZeros : Nat → Nat → Nat
  | 0, _ => 0
  | n + 1, v => if v.testBit n then 0 else leadingZeros n v + 1

/-- `GLUT[k][v]`: the code-word length and MErrval, length 0 being the sentinel. -/
def glut (k v : Nat) : Nat × Nat :=
  let q := leadingZeros 8 v
  if q + 1 + k ≤ 8 then (q + 1 + k, q <<< k ||| (v >>> (8 - (q + 1 + k))) % 2 ^ k) else (0, 0)

/-! ## Reading a code word -/

/-- `DecodeValue(k, limit)` (41_golomb.md R200), answering the code word with its fields; `short` and `escape` name
the two forms in the state that reads them. -/
def readCodeWord (mem : Memory) (len k limit qbpp : Nat) (short escape : Nat → Nat → Instr) (r : BitReader) :
    Read Instr :=
  (readHighBits mem len r).andThen fun q r' =>
    if escThreshold limit qbpp ≤ q then
      (readValue mem len qbpp r').andThen fun v r'' => .done (escape q v) r''
    else (readValue mem len k r').andThen fun rem r'' => .done (short q rem) r''

/-- `DecodeRegularMErrval(k)` (41_golomb.md R207): the peek-table path, then rule R200. The table holds
MErrval, whose quotient and remainder are `merr >> k` and `merr mod 2^k` (R206). -/
def readRegular (mem : Memory) (len k limit qbpp : Nat) (r : BitReader) : Read Instr :=
  if k ≤ Config.lutMaxK then
    (peekByte mem len r).andThen fun v r' =>
      if (glut k v).1 ≠ 0 ∧ (glut k v).1 ≤ r'.valid then
        .done (.reg ((glut k v).2 >>> k) ((glut k v).2 % 2 ^ k)) (skip (glut k v).1 r')
      else readCodeWord mem len k limit qbpp .reg .esc r'
  else readCodeWord mem len k limit qbpp .reg .esc r

/-- One code word of RUN_SCAN: a run bit and, after a 0, the tail of `j` bits (44_run_mode.md R301). -/
def readRun (mem : Memory) (len j : Nat) (r : BitReader) : Read Instr :=
  (readBit mem len r).andThen fun bit r' =>
    if bit = 1 then .done .run1 r' else (readValue mem len j r').andThen fun t r'' => .done (.run0 t) r''

/-! ## The value of a code word -/

/-- `(q << k) | r` (30_encoding.md R116). -/
def golombValue (k q r : Nat) : Nat := q <<< k ||| r

/-- `v + 1` (30_encoding.md R117). -/
def escapeValue (v : Nat) : Nat := v + 1

/-- `Unmap(M)` (43_regular_mode.md R263, 30_encoding.md R118). -/
def unmap (m : Nat) : Int := if m % 2 = 1 then -(((m + 1) >>> 1 : Nat) : Int) else ((m >>> 1 : Nat) : Int)

/-- The bias correction of the mapping is in force (43_regular_mode.md R264). -/
def biasFlips (near k : Nat) (ctx : RegCtx) : Bool :=
  decide (near = 0) && decide (k = 0) && decide (2 * ctx.b ≤ -(ctx.n : Int))

/-- The error of a regular code word (43_regular_mode.md R263, R264). -/
def regularError (near k : Nat) (ctx : RegCtx) (merr : Nat) : Int :=
  if biasFlips near k ctx then -unmap merr - 1 else unmap merr

/-- The Golomb parameter of a run-interruption sample, from `TEMP` (44_run_mode.md R313). -/
def riGolombK (t : Fin 2) (ctx : RiCtx) : Nat := golombK ctx.n (ctx.a + (ctx.n >>> 1) * t.val)

/-- `glimit` (30_encoding.md R121, 44_run_mode.md R314). -/
def riLimit (limit j : Nat) : Nat := limit - j - 1

/-- The error of a run-interruption code word: the operand assembly of `RIOperand` (44_run_mode.md R314). -/
def riError (k : Nat) (t : Fin 2) (ctx : RiCtx) (em : Nat) : Int :=
  let m := (em + t.val) % 2
  let mag : Int := ((em + t.val + m) >>> 1 : Nat)
  if (decide (k ≠ 0) || decide (ctx.n ≤ 2 * ctx.nn)) = decide (m = 1) then -mag else mag

/-- The standard's run-interruption mapping, which `riError` inverts (44_run_mode.md R314): the `map` bit. -/
def riMap (k : Nat) (ctx : RiCtx) (e : Int) : Nat :=
  if (k = 0 ∧ 0 < e ∧ 2 * ctx.nn < ctx.n) ∨ (e < 0 ∧ ctx.n ≤ 2 * ctx.nn) ∨ (e < 0 ∧ k ≠ 0) then 1 else 0

/-- The standard's regular mapping (43_regular_mode.md R263, R264), which `regularError` inverts. -/
def regularMap (near k : Nat) (ctx : RegCtx) (e : Int) : Int :=
  if biasFlips near k ctx then (if 0 ≤ e then 2 * e + 1 else -2 * (e + 1))
  else if 0 ≤ e then 2 * e else -2 * e - 1

end Sys2Proof.Machine
end

