-- ==== Sys2Proof/Machine/Regular.lean ====
section
/-! DEFINITION. The regular-mode context model (unit CTX, 43_regular_mode.md): the context update, and the meanings of
REG and ESC over one shared regular-mode step. -/

namespace Sys2Proof.Machine

/-- `BiasCancel(B, C, N)` (43_regular_mode.md R267). -/
def biasCancel (b c : Int) (n : Nat) : Int × Int :=
  if b ≤ -(n : Int) then
    (if b + n ≤ -(n : Int) then -(n : Int) + 1 else b + n, if -128 < c then c - 1 else c)
  else if 0 < b then (if 0 < b - n then 0 else b - n, if c < 127 then c + 1 else c)
  else (b, c)

/-- The halving at `N = RESET` and the increment of N (43_regular_mode.md R266). The shifts are floors. -/
def renormalise (reset : Nat) (a : Nat) (b : Int) (n : Nat) : Nat × Int × Nat :=
  if n = reset then (a >>> 1, b >>> 1, (n >>> 1) + 1) else (a, b, n + 1)

/-- The sums of a regular update stay below `ACC_LIMIT` (43_regular_mode.md R266). -/
def regularSumsFit (near : Nat) (ctx : RegCtx) (e : Int) : Bool :=
  decide (ctx.a + e.natAbs < Config.accLimit) &&
  decide ((ctx.b + dequantize near e).natAbs < Config.accLimit)

/-- `UpdateRegular(ctx, Errval)` when the sums fit (43_regular_mode.md R266, R267). -/
def updateRegular (p : Scan) (ctx : RegCtx) (e : Int) : RegCtx :=
  let abn := renormalise p.reset (ctx.a + e.natAbs) (ctx.b + dequantize p.near e) ctx.n
  let bc := biasCancel abn.2.1 ctx.c abn.2.2
  { a := abn.1, b := bc.1, c := bc.2, n := abn.2.2 }

/-- The quantised gradients of the current sample. -/
def State.gradients (s : State) : Int × Int × Int := quantised s.scan (neighbours s)

/-- The context number of the current sample. -/
def State.ctxNumber (s : State) : Fin Config.nRegCtx := contextNumber s.gradients

/-- The context of the current sample, before its update. -/
def State.regularCtx (s : State) : RegCtx := s.ctxr.get s.ctxNumber

/-- The Golomb parameter of the current regular sample (43_regular_mode.md R261). -/
def State.regularK (s : State) : Nat := golombK s.regularCtx.n s.regularCtx.a

/-- The corrected prediction of the current sample (42_traits_predictor.md R246). -/
def State.prediction (s : State) : Int :=
  correctPrediction s.scan.maxval
    (med (neighbours s).ra (neighbours s).rb (neighbours s).rc + contextSign s.gradients * s.regularCtx.c)

/-- The state after a regular sample with the error `e`: context updated, sample written, X advanced, back to CLASSIFY
(43_regular_mode.md R260, R270, R271; 45_scan_control.md R345). -/
def regularWrite (e : Int) (s : State) : State :=
  ((s.setCtxr s.ctxNumber (updateRegular s.scan s.regularCtx e)).writeSample
    (reconstruct s.scan s.prediction (contextSign s.gradients * e)).toNat).setFsm .classify

/-- `RegularStep` once its code word has been read, with MErrval `merr` (43_regular_mode.md R260): the error bound, then
the accumulator bound, then the writes. -/
def regularStep (merr : Nat) (s : State) : State :=
  let e := regularError s.scan.near s.regularK s.regularCtx merr
  if Config.errLimit < e.natAbs then raiseError .invalidCompressedData s
  else if regularSumsFit s.scan.near s.regularCtx e then regularWrite e s
  else raiseError .invalidCompressedData s

/-- `REG`: MErrval is `(q << k) | r` (43_regular_mode.md R260, 30_encoding.md R116). -/
def execReg (q r : Nat) (s : State) : Host.Outcome State Fault Refusal :=
  .next (regularStep (golombValue s.regularK q r) s)

/-- `ESC`: MErrval is `v + 1`, whatever the quotient beyond the threshold (43_regular_mode.md R260, 30_encoding.md R117,
R125). -/
def execEsc (_q v : Nat) (s : State) : Host.Outcome State Fault Refusal :=
  .next (regularStep (escapeValue v) s)

end Sys2Proof.Machine
end

