-- ==== Sys2Proof/Machine/Run.lean ====
section
/-! DEFINITION. Run mode (unit RUN, 44_run_mode.md): the meanings of RUN1 and RUN0 over a shared end of run, and of RI
and RIESC over a shared run-interruption step. -/

namespace Sys2Proof.Machine

/-! ## The run-length code (R301) -/

/-- `remaining`, the samples of the line from X on (R301). -/
def State.remaining (s : State) : Nat := s.scan.width - s.x

/-- `RUNval`, the Ra of the sample at run entry (R300). -/
def State.runVal (s : State) : Nat := sampleAt s.line.cur s.x

/-- The samples a 1 bit stands for: `min(2^J, remaining - cnt)` (R301). -/
def State.run1Count (s : State) : Nat := min (1 <<< s.j) (s.remaining - s.runCnt)

/-- RUNIDX after a 1 bit: it advances, up to 31, when the bit stood for a full `2^J` samples (R302). -/
def advanceRunIdx (i : Fin 32) : Fin 32 := if h : i.val < 31 then ⟨i.val + 1, by omega⟩ else i

/-- RUNIDX after a run stopped by a 0 bit: `max(0, RUNIDX - 1)` (R319). -/
def retreatRunIdx (i : Fin 32) : Fin 32 := ⟨i.val - 1, by omega⟩

/-- `RUNIDX[COMP]` after a 1 bit (R302). -/
def State.runIdxAfter1 (s : State) : Fin 32 :=
  if s.run1Count = 1 <<< s.j then advanceRunIdx (s.runIdx.get s.comp) else s.runIdx.get s.comp

/-- The counter of the run. -/
def State.setRunCnt (s : State) (n : Nat) : State := { s with runCnt := n }

/-- The end of a run of `n` samples: they are written and X moves past them (R301, R303). -/
def endRun (n : Nat) (s : State) : State := (s.fillRun n s.runVal).setRunCnt 0

/-- `RUN1` (R301, R302, R304): counts its samples; when they reach the end of the line the run ends there, with no tail,
no interruption sample and no decrement. -/
def execRun1 (s : State) : Host.Outcome State Fault Refusal :=
  let s' := s.setRunIdx s.runIdxAfter1
  if s.runCnt + s.run1Count = s.remaining then .next ((endRun (s.runCnt + s.run1Count) s').setFsm .classify)
  else .next (s'.setRunCnt (s.runCnt + s.run1Count))

/-- `RUN0` (R301, R305, R306, R319): the tail ends the run. Past the end of the line it raises; short of it the
interruption sample comes next; at the end of the line RUNIDX is decremented and the line is full. -/
def execRun0 (t : Nat) (s : State) : Host.Outcome State Fault Refusal :=
  if s.remaining < s.runCnt + t then .next (raiseError .invalidCompressedData s)
  else if s.x + (s.runCnt + t) < s.scan.width then
    .next ((endRun (s.runCnt + t) s).setFsm .runInterrupt)
  else
    .next (((endRun (s.runCnt + t) s).setRunIdx (retreatRunIdx (s.runIdx.get s.comp))).setFsm .classify)

/-! ## The run-interruption sample (R320) -/

/-- `RItype` of the current sample (R310). -/
def State.riType (s : State) : Fin 2 := Machine.riType s.scan (neighbours s)

/-- The interruption context of the current sample, before its update (R311). -/
def State.riCtx (s : State) : RiCtx := s.ctxi.get s.riType

/-- The Golomb parameter of the current interruption sample (R313). -/
def State.riK (s : State) : Nat := riGolombK s.riType s.riCtx

/-- `UpdateRI`'s A sum (R316). -/
def riSum (t : Fin 2) (ctx : RiCtx) (em : Nat) : Nat := ctx.a + ((em + 1 - t.val) >>> 1)

/-- `UpdateRI(ctx, Errval, EMErrval, RItype)` when the sum fits (R316). -/
def updateRi (reset : Nat) (t : Fin 2) (ctx : RiCtx) (em : Nat) (e : Int) : RiCtx :=
  let nn := ctx.nn + (if e < 0 then 1 else 0)
  if ctx.n = reset then
    { a := riSum t ctx em >>> 1, b := ctx.b, n := (ctx.n >>> 1) + 1, nn := nn >>> 1 }
  else { a := riSum t ctx em, b := ctx.b, n := ctx.n + 1, nn := nn }

/-- The state after an interruption sample with EMErrval `em` and error `e`: context updated, sample written, X
advanced, RUNIDX decremented, back to CLASSIFY (R318, R319, R320; 45_scan_control.md R345). -/
def riWrite (em : Nat) (e : Int) (s : State) : State :=
  (((s.setCtxi s.riType (updateRi s.scan.reset s.riType s.riCtx em e)).writeSample
    (reconstruct s.scan (riPrediction s.riType (neighbours s)) (riSign s.riType (neighbours s) * e)).toNat).setRunIdx
    (retreatRunIdx (s.runIdx.get s.comp))).setFsm .classify

/-- `RunInterrupt` once its code word has been read, with EMErrval `em` (R320): the error bound, then the accumulator
bound, then the writes. -/
def riStep (em : Nat) (s : State) : State :=
  let e := riError s.riK s.riType s.riCtx em
  if Config.errLimit < e.natAbs then raiseError .invalidCompressedData s
  else if riSum s.riType s.riCtx em < Config.accLimit then riWrite em e s
  else raiseError .invalidCompressedData s

/-- `RI`: EMErrval is `(q << k) | r` (R320, 30_encoding.md R121). -/
def execRi (q r : Nat) (s : State) : Host.Outcome State Fault Refusal :=
  .next (riStep (golombValue s.riK q r) s)

/-- `RIESC`: EMErrval is `v + 1` (R320, 30_encoding.md R121). -/
def execRiesc (_q v : Nat) (s : State) : Host.Outcome State Fault Refusal :=
  .next (riStep (escapeValue v) s)

end Sys2Proof.Machine
end

