-- ==== Sys2Proof/Machine/Control.lean ====
section
/-! DEFINITION. The scan controller (unit SCN, 45_scan_control.md): the transitions that read no bits, the line sink,
the meanings of PAD and CTRL.START. -/

namespace Sys2Proof.Machine

/-- LINE_START: `LineStartBorders(COMP)` and `X ← 0` (45_scan_control.md R341, R345). The two writes run in order: with
WIDTH 1 or more they touch different rows. -/
def lineStart (s : State) : State :=
  let b := s.line.setCur (s.line.cur.set 0 (sampleAt s.line.prev 1))
  let b' := b.setPrev (b.prev.set (s.scan.width + 1) (sampleAt b.prev s.scan.width))
  { s with lb := s.lb.set s.comp b', x := 0, fsm := .classify }

/-- CLASSIFY (45_scan_control.md R345): the end of the line, a run, or a regular sample. -/
def classify (s : State) : State :=
  if s.x = s.scan.width then s.setFsm .lineEnd
  else if runCondition s.gradients then s.setFsm .runScan
  else s.setFsm .regular

/-- The row operand of `Deliver`: columns 0 to WIDTH - 1 of every component, one after another
(45_scan_control.md R351). -/
def deliveredRow (s : State) : List Nat :=
  (s.lb.below s.scan.comps).flatMap fun b => (b.cur.drop 1).take s.scan.width

/-- The sink's answer to the next call (log 7). -/
def nextReply : List SinkReply → SinkReply
  | [] => .ok
  | a :: _ => a

/-- The sink has received the call of line Y and has answered it (45_scan_control.md R351). -/
def callSink (s : State) : State :=
  { s with
    sinkReplies := s.sinkReplies.tail
    delivered := s.delivered ++
      [⟨s.y, deliveredRow s, s.scan.width, s.scan.width, nextReply s.sinkReplies⟩] }

/-- After an accepted call: LINES increments, the rows swap, and the next line starts or the scan ends
(45_scan_control.md R345, R348, R351). -/
def nextLine (s : State) : State :=
  { s with
    lines := s.lines + 1
    lb := s.lb.mapBelow s.scan.comps LineBuf.toggle
    comp := 0
    y := s.y + 1
    fsm := if s.y + 1 < s.scan.height then .lineStart else .finalize }

/-- LINE_END (45_scan_control.md R345, R351): the next component's line, or the delivery of line Y. -/
def lineEnd (s : State) : State :=
  if s.comp.val + 1 < s.scan.comps then { s with comp := s.comp + 1, fsm := .lineStart }
  else
    match nextReply s.sinkReplies with
    | .ok => nextLine (callSink s)
    | .tooSmall => raiseError .destinationBufferTooSmall (callSink s)

/-- The scan has ended: BYTEPOS takes the byte position, PHASE becomes DONE (45_scan_control.md R347, R349;
10_state.md R40). -/
def finishScan (s : State) : State :=
  { s with
    bytepos := BitVec.ofNat 32 (currentBytePosition s.input s.brd)
    phase := .done
    fsm := .done }

/-- `PAD`: the end-of-scan check and the end of the scan (40_bitreader.md R163, 45_scan_control.md R345). `Finalize`
looks at the unconsumed bits as a whole and consumes at most one, so its effect does not depend on how many padding
bits there are (log 12). -/
def execPad (_n : Nat) (s : State) : Host.Outcome State Fault Refusal :=
  match finalize s.input s.scan.len s.brd with
  | .done _ r => .next (finishScan (s.setBrd r))
  | .raised code r => .next (raiseError code (s.setBrd r))

/-- The latched constants, with LINES and ERR cleared (70_reset_and_hazards.md R421 items 1 and 2). -/
def latchScan (s : State) : State := { s with scan := latch s.cfg, lines := 0, err := .none }

/-- The per-scan state at START (10_state.md R57, 70_reset_and_hazards.md R421 items 4 and 5). All `COMP_MAX`
components are initialised; those from COMPS on are read by no rule (log 16). -/
def initScan (s : State) : State :=
  { s with
    brd := ⟨0, 0, 0, false⟩
    ctxr := Vector.replicate Config.nRegCtx ⟨s.scan.a0, 0, 0, 1⟩
    ctxi := Vector.replicate 2 ⟨s.scan.a0, 0, 1, 0⟩
    runIdx := PerComp.same 0
    lb := PerComp.same ⟨zeroRow s.scan.width, zeroRow s.scan.width, false⟩
    comp := 0
    y := 0
    x := 0
    runCnt := 0
    phase := .busy
    fsm := .lineStart }

/-- `CTRL.START` (10_state.md R36, R37; 70_reset_and_hazards.md R421): no effect while BUSY, otherwise latch, check,
and start or refuse the scan. -/
def execCtrlStart (s : State) : Host.Outcome State Fault Refusal :=
  if s.phase = .busy then .next s
  else if (latch s.cfg).legal then .next (initScan (latchScan s))
  else .next (raiseError .parameterValueNotSupported (latchScan s))

end Sys2Proof.Machine
end

