-- ==== Sys2Proof/Machine/Dispatch.lean ====
section
/-! DEFINITION. One arm per instruction. -/

namespace Sys2Proof.Machine

def exec (i : Instr) (s : State) : Host.Outcome State Fault Refusal :=
  match i with
  | .plainByte b => Sys2Proof.Machine.execPlainByte b s
  | .stuffedPair z => Sys2Proof.Machine.execStuffedPair z s
  | .mark m => Sys2Proof.Machine.execMark m s
  | .reg q r => Sys2Proof.Machine.execReg q r s
  | .esc q v => Sys2Proof.Machine.execEsc q v s
  | .run1 => Sys2Proof.Machine.execRun1 s
  | .run0 t => Sys2Proof.Machine.execRun0 t s
  | .ri q r => Sys2Proof.Machine.execRi q r s
  | .riesc q v => Sys2Proof.Machine.execRiesc q v s
  | .pad n => Sys2Proof.Machine.execPad n s
  | .ctrlStart => Sys2Proof.Machine.execCtrlStart s

end Sys2Proof.Machine
end

