-- ==== Sys2Proof/Machine/Fetch.lean ====
section
/-! DEFINITION. What a step is made of, with the instruction set `run` as an argument: reading the code word the
controller's state selects, the transitions, the host's moves. `Machine/Step.lean` gives it `exec`. -/

namespace Sys2Proof.Machine

/-- The context the controller parses the next code word in (30_encoding.md R111); none in a state that reads no
bits. -/
def codeContext (s : State) : Option ParseCtx :=
  match s.fsm with
  | .regular => some (.regular s.regularK s.scan.limit s.scan.qbpp)
  | .runScan => some (.runScan s.j)
  | .runInterrupt => some (.runInterrupt s.riK (riLimit s.scan.limit s.j) s.scan.qbpp)
  | .finalize => some .finalize
  | _ => none

/-- Reads the next code word of context `c` from the bit reader. In FINALIZE nothing is consumed by the reading: the
bits that are left are the padding, and PAD looks at them itself. -/
def readCode (c : ParseCtx) (s : State) : Read Instr :=
  match c with
  | .regular k limit qbpp => readRegular s.input s.scan.len k limit qbpp s.brd
  | .runScan j => readRun s.input s.scan.len j s.brd
  | .runInterrupt k glimit qbpp => readCodeWord s.input s.scan.len k glimit qbpp .ri .riesc s.brd
  | _ => .done (.pad s.brd.valid) s.brd

/-- One code word: read and run; a failure of the bit reader is taken with the reader as it was
(60_exceptions.md R383). -/
def runCode (run : Instr → State → Host.Outcome State Fault Refusal) (c : ParseCtx) (s : State) :
    Host.Outcome State Fault Refusal :=
  match readCode c s with
  | .done i r => run i (s.setBrd r)
  | .raised code r => .next (raiseError code (s.setBrd r))

/-- The run loop (44_run_mode.md R301): run bits until the controller has left RUN_SCAN. Every 1 bit counts at least
one sample of the line, so `WIDTH - X + 1` turns are enough. -/
def runScanLoop (run : Instr → State → Host.Outcome State Fault Refusal) :
    Nat → State → Host.Outcome State Fault Refusal
  | 0, s => .next s
  | turns + 1, s =>
    match runCode run (.runScan s.j) s with
    | .next t => if t.fsm = .runScan then runScanLoop run turns t else .next t
    | o => o

/-- One transition of the controller (45_scan_control.md R345). In IDLE, DONE and ERROR the block waits for START. -/
def blockStep (run : Instr → State → Host.Outcome State Fault Refusal) (s : State) :
    Host.Outcome State Fault Refusal :=
  match s.fsm with
  | .idle => .next s
  | .lineStart => .next (lineStart s)
  | .classify => .next (classify s)
  | .regular => runCode run (.regular s.regularK s.scan.limit s.scan.qbpp) s
  | .runScan => runScanLoop run (s.remaining + 1) (s.setRunCnt 0)
  | .runInterrupt => runCode run (.runInterrupt s.riK (riLimit s.scan.limit s.j) s.scan.qbpp) s
  | .lineEnd => .next (lineEnd s)
  | .finalize => runCode run .finalize s
  | .done => .next s
  | .error => .next s

/-- The pending move is taken from the list. -/
def State.popHost (s : State) : State := { s with host := s.host.tail }

/-- The host writes register `num`: a command if the bits decode to one, else a stored value (30_encoding.md R126). -/
def hostWrite (run : Instr → State → Host.Outcome State Fault Refusal) (num : Nat) (v : Word) (s : State) :
    Host.Outcome State Fault Refusal :=
  match decoded (.hostWrite num) (bitsMSB 32 v.toNat) with
  | some i => run i s
  | none => .next (regWrite num v s)

/-- The host supplies an input byte. A byte of the range a running scan has borrowed must not change
(70_reset_and_hazards.md R431). -/
def hostSupply (i : BitVec 32) (b : Byte) (s : State) : Host.Outcome State Fault Refusal :=
  if s.phase = .busy ∧ i.toNat < s.scan.len then .fault .inputChangedWhileBusy else .next (supplyByte i b s)

/-- One step: the host's next move, or, when none is pending, a transition of the block (log 1). -/
def stepWith (run : Instr → State → Host.Outcome State Fault Refusal) (s : State) :
    Host.Outcome State Fault Refusal :=
  match s.host with
  | [] => blockStep run s
  | .letBlockRun :: _ => blockStep run s.popHost
  | .write num v :: _ => hostWrite run num v s.popHost
  | .read num :: _ => .next (hostRead num s.popHost)
  | .supply i b :: _ => hostSupply i b s.popHost
  | .powerOn :: _ => .next (powerOnReset s.popHost)

/-! ## Placing an instruction where the next step fetches it (log 10) -/

/-- The host's next move is the write of `v` to register 0x00. -/
def placeHostWrite (v : Nat) (s : State) : State := { s with host := .write 0 (BitVec.ofNat 32 v) :: s.host }

/-- A run of one sample is being decoded, and the block takes the next step. -/
def placeRun (len : Nat) (r : BitReader) (s : State) : State :=
  { s with
    host := .letBlockRun :: s.host
    phase := .busy
    fsm := .runScan
    x := 0
    scan := { s.scan with width := 1, len := len }
    brd := r }

/-- Input bytes from position 0, and an empty reader in front of them. -/
def placeBytes (bytes : List Byte) (s : State) : State :=
  placeRun bytes.length ⟨0, 0, 0, false⟩
    { s with input := (bytes.zipIdx).foldl (fun m b => m.write b.2 b.1) s.input }

/-- The state in which the next step fetches the instruction `decodeTableWord nbits w`: a host write is the host's next
move, input bytes stand at position 0 in front of an empty reader, and a run bit is the first bit of the cache, zeros
after it. -/
def placeTableWord (s : State) (nbits w : Nat) : State :=
  if nbits = 32 then placeHostWrite w s
  else if nbits = 16 then placeBytes [BitVec.ofNat 8 (w / 256), BitVec.ofNat 8 w] s
  else if nbits = 8 then
    if w < 2 then placeRun 0 ⟨BitVec.ofNat 32 (w * 2 ^ 31), 32, 0, false⟩ s else placeBytes [BitVec.ofNat 8 w] s
  else s

end Sys2Proof.Machine
end

