-- ==== Sys2Proof/Safety.lean ====
section
/-! DEFINITION. What a safe state of the machine is, in the terms the statements use: the status registers agree with
the controller, a running scan has legal constants, a well-formed bit reader, bounded contexts, samples in range, and
a position inside the image. The bounds are those of 10_state.md R42 to R52, 40_bitreader.md R150, 43_regular_mode.md
R268 and 44_run_mode.md R317. -/

namespace Sys2Proof.Machine

/-- The phase a controller state belongs to (45_scan_control.md R345). -/
def Fsm.phase : Fsm → Phase
  | .idle => .idle
  | .done => .done
  | .error => .error
  | _ => .busy

/-- PHASE agrees with FSM; ERR is 0 unless PHASE = ERROR, and then one of the four codes the block raises
(10_state.md R39, 60_exceptions.md R380, R382). -/
def StatusInv (s : State) : Prop :=
  s.phase = s.fsm.phase ∧
    ((s.phase = .error ∧ 1 ≤ s.err.number ∧ s.err.number ≤ 4) ∨ (s.phase ≠ .error ∧ s.err = .none))

/-- While BUSY the scan constants are the legal effective values of some configuration (10_state.md R37, R38). -/
def LatchedInv (s : State) : Prop :=
  s.phase = .busy → ∃ c : Cfg, s.scan = latch c ∧ (latch c).legal = true

/-- A bit reader between two operations: `VALID ≤ W`, the bits below the valid ones are 0, POS is not beyond the
marker, and AFTER_FF says whether the byte before POS is a stuffed `0xFF` (10_state.md R42, R43; 40_bitreader.md
R150). -/
def ReaderOk (mem : Memory) (len : Nat) (r : BitReader) : Prop :=
  r.valid ≤ Config.cacheWidth ∧ r.cache <<< r.valid = 0 ∧ r.pos ≤ markerPos mem len ∧
    (r.afterFF = true ↔ 0 < r.pos ∧ mem.read (r.pos - 1) = 0xFF#8)

/-- While BUSY the bit reader is well formed. -/
def ReaderInv (s : State) : Prop := s.phase = .busy → ReaderOk s.input s.scan.len s.brd

/-- The bounds of a regular context (10_state.md R52, 43_regular_mode.md R268), as they hold from START on. -/
def RegCtxOk (reset : Nat) (ctx : RegCtx) : Prop :=
  ctx.a < Config.accLimit ∧ (-(ctx.n : Int) < ctx.b ∧ ctx.b ≤ 0) ∧ (-128 ≤ ctx.c ∧ ctx.c ≤ 127) ∧
    1 ≤ ctx.n ∧ ctx.n ≤ reset

/-- The bounds of a run-interruption context (10_state.md R48, R52; 44_run_mode.md R317), as they hold from START
on. -/
def RiCtxOk (reset : Nat) (ctx : RiCtx) : Prop :=
  ctx.a < Config.accLimit ∧ ctx.b = 0 ∧ 1 ≤ ctx.n ∧ ctx.n ≤ reset ∧ ctx.nn < ctx.n

/-- While BUSY every context keeps its bounds. -/
def ContextInv (s : State) : Prop :=
  s.phase = .busy →
    (∀ q : Fin Config.nRegCtx, RegCtxOk s.scan.reset (s.ctxr.get q)) ∧
      ∀ t : Fin 2, RiCtxOk s.scan.reset (s.ctxi.get t)

/-- A row of `WIDTH + 2` samples in `[0, MAXVAL]` (10_state.md R51). -/
def RowOk (p : Scan) (row : List Nat) : Prop := row.length = p.width + 2 ∧ ∀ v ∈ row, v ≤ p.maxval

/-- While BUSY every line buffer holds rows of samples in range. -/
def SampleInv (s : State) : Prop :=
  s.phase = .busy →
    ∀ c : Fin Config.compMax, RowOk s.scan (s.lb.get c).row0 ∧ RowOk s.scan (s.lb.get c).row1

/-- A controller state that decodes a sample. -/
def Fsm.decodesSample : Fsm → Bool
  | .regular => true
  | .runScan => true
  | .runInterrupt => true
  | _ => false

/-- While BUSY the scan position lies inside the image and LINES equals the line number Y (10_state.md R41, R45). -/
def PositionInv (s : State) : Prop :=
  s.phase = .busy →
    s.comp.val < s.scan.comps ∧ s.scan.comps ≤ Config.compMax ∧ s.scan.height ≤ Config.heightMax ∧
      s.x ≤ s.scan.width ∧ (s.fsm.decodesSample = true → s.x < s.scan.width) ∧
      s.lines.toNat = s.y ∧ (s.fsm ≠ .finalize → s.y < s.scan.height) ∧ (s.fsm = .finalize → s.y = s.scan.height)

/-- The input bytes are in canonical form. -/
def MemoryInv (s : State) : Prop := s.input.wf = true

/-- A safe state. -/
def Inv (s : State) : Prop :=
  MemoryInv s ∧ StatusInv s ∧ LatchedInv s ∧ ReaderInv s ∧ ContextInv s ∧ SampleInv s ∧ PositionInv s

/-- The source's own test for SIGN = -1: the first non-zero of `(Q1, Q2, Q3)` is negative (42_traits_predictor.md
R240). -/
def firstNonZeroNegative (q : Int × Int × Int) : Bool :=
  if q.1 ≠ 0 then decide (q.1 < 0) else if q.2.1 ≠ 0 then decide (q.2.1 < 0) else decide (q.2.2 < 0)

end Sys2Proof.Machine
end

