-- ==== Sys2Proof/Certificates/Slice0/Obligations.lean ====
section
/-! DEFINITION. The statements for the provers. Each says which rule of spec/ it is about; OBLIGATIONS.json lists them.
A statement about a step of the block has no host move pending, so that the block takes the step (log 1). -/

open Sys2Proof Sys2Proof.Machine

/-! ## Encoding -/

/-- Decoding an encoded well-formed instruction gives it back with every operand, whatever follows it. A final `0xFF`
and the padding are the two forms that nothing follows (30_encoding.md R112 to R122, R126). -/
def Obligations.DecodeOfEncodeIsIdentity : Prop :=
  ∀ (c : ParseCtx) (i : Instr) (rest : List Bool), i.wf c = true →
    ((i = .mark none ∨ ∃ n, i = .pad n) → rest = []) →
      decode c (encode c i ++ rest) = .ok (i, rest)

/-- What the decoder reads is well formed and is exactly the bits that encode it: no bit is dropped and no word has two
meanings (30_encoding.md R112 to R122). The host level is left out: a START write ignores its reserved bits. -/
def Obligations.DecodedFormIsExactlyItsBits : Prop :=
  ∀ (c : ParseCtx) (bits : List Bool) (i : Instr) (rest : List Bool), (∀ n, c ≠ .hostWrite n) →
    decode c bits = .ok (i, rest) → i.wf c = true ∧ bits = encode c i ++ rest

/-- Words written out from the encodings of 30_encoding.md: `FF 41`, `FF D9`, a plain byte, `01 10` with k = 2
(41_golomb.md R200), the escape of R201, a run stop with a two-bit tail, and a START write. -/
def Obligations.WrittenWordsDecode : Prop :=
  decode .byteLevel (bitsMSB 16 0xFF41) = .ok (.stuffedPair 0x41#7, []) ∧
  decode .byteLevel (bitsMSB 16 0xFFD9) = .ok (.mark (some 0x59#7), []) ∧
  decode .byteLevel (bitsMSB 8 0x12) = .ok (.plainByte 0x12#8, []) ∧
  decode (.regular 2 32 8) [false, true, true, false] = .ok (.reg 1 2, []) ∧
  decode (.regular 2 32 8) (List.replicate 23 false ++ true :: bitsMSB 8 5) = .ok (.esc 23 5, []) ∧
  decode (.runScan 2) [false, true, false] = .ok (.run0 2, []) ∧
  decode (.hostWrite 0) (bitsMSB 32 1) = .ok (.ctrlStart, [])

/-! ## The bit stream and the bit reader -/

/-- 20_memory.md R88: the marker position is the least position below LEN with a `0xFF` that is the last byte or is
followed by a byte with bit 7 set, and LEN when there is none. -/
def Obligations.MarkerPositionIsLeast : Prop :=
  ∀ (mem : Memory) (len : Nat),
    let starts := fun i => mem.read i = 0xFF#8 ∧ (i = len - 1 ∨ (mem.read (i + 1)).getLsbD 7 = true)
    (∀ i, i < markerPos mem len → i < len ∧ ¬ starts i) ∧
      ((markerPos mem len < len ∧ starts (markerPos mem len)) ∨
        (markerPos mem len = len ∧ ∀ i, i < len → ¬ starts i))

/-- A turn of the refill loop is `exec` of the byte form at POS, and a marker ends the loop. R151's own loop takes one
byte a turn (40_bitreader.md R151); that the byte forms are instructions run inside refills, and that both bytes of a
stuffed pair are one turn, split only by a full cache, is the model's choice (log 11). -/
def Obligations.RefillRunsByteForms : Prop :=
  ∀ (s : State) (turns : Nat), s.brd.valid ≤ 24 → s.brd.pos < s.scan.len →
    ∃ t, exec (byteFormAt s.input s.scan.len s.brd) s = .next t ∧
      (((∃ b, byteFormAt s.input s.scan.len s.brd = .plainByte b) ∨
          (∃ z, byteFormAt s.input s.scan.len s.brd = .stuffedPair z)) →
        refillLoop s.input s.scan.len (turns + 1) s.brd = refillLoop s.input s.scan.len turns t.brd) ∧
      ((∃ m, byteFormAt s.input s.scan.len s.brd = .mark m) →
        refillLoop s.input s.scan.len (turns + 1) s.brd = s.brd) ∧
      t = { s with brd := t.brd, fsm := t.fsm, phase := t.phase, err := t.err }

/-- After a refill that does not raise, the reader is well formed and has not lost or gained a bit of the stream, and
either at least 25 bits are valid or the loop stopped at the marker or at the end of input; a refill raises only
when no bit is left (40_bitreader.md R150, R151, R153). -/
def Obligations.RefillKeepsStreamAndFillsCache : Prop :=
  ∀ (mem : Memory) (len : Nat) (r : BitReader), ReaderOk mem len r → r.valid ≤ 24 →
    match refill mem len r with
    | .done _ r' =>
      ReaderOk mem len r' ∧ bitsLeft mem len r' = bitsLeft mem len r ∧
        (25 ≤ r'.valid ∨ r'.pos = markerPos mem len ∨ r'.pos = len)
    | .raised code r' => code = .invalidCompressedData ∧ r'.valid = 0 ∧ bitsLeft mem len r = []

/-- The fast path (40_bitreader.md R154): while POS is at least four bytes before the next `0xFF`, one wide load leaves
the reader exactly as the byte-at-a-time refill does. -/
def Obligations.FastPathEqualsRefill : Prop :=
  ∀ (mem : Memory) (len : Nat) (r : BitReader), r.valid ≤ 24 → r.afterFF = false →
    r.pos + 4 ≤ nextFF mem len r → refill mem len r = .done () (fastRefill mem r)

/-- `ReadValue(k)` (40_bitreader.md R156): the `k` bits at the front of the unconsumed stream, read most significant
first, are consumed; with fewer than `k` left it raises. And its refill schedule (R155, 10_state.md R55): with
`k ≤ VALID` nothing is refilled and POS stays; otherwise the reader is refilled once, and the bits are taken from the
refilled cache or, when it still holds fewer than `k`, the read raises. -/
def Obligations.ReadValueTakesStreamBits : Prop :=
  (∀ (mem : Memory) (len k : Nat) (r : BitReader), ReaderOk mem len r → k ≤ 24 →
    match readValue mem len k r with
    | .done v r' => ReaderOk mem len r' ∧ v < 2 ^ k ∧ bitsLeft mem len r = bitsMSB k v ++ bitsLeft mem len r'
    | .raised code _ => code = .invalidCompressedData ∧ (bitsLeft mem len r).length < k) ∧
  ∀ (mem : Memory) (len k : Nat) (r : BitReader),
    (k ≤ r.valid → ∃ v r', readValue mem len k r = .done v r' ∧ r'.valid = r.valid - k ∧ r'.pos = r.pos ∧
      r'.afterFF = r.afterFF) ∧
    (r.valid < k →
      (∀ u, refill mem len r = .done () u →
        readValue mem len k r =
          if k ≤ u.valid then .done (topBits k u) (skip k u) else .raised .invalidCompressedData u) ∧
      ∀ code u, refill mem len r = .raised code u → readValue mem len k r = .raised code u)

/-- `ReadHighBits()` (40_bitreader.md R159): the zeros up to the next 1 are counted and consumed with it; without a 1
in the stream it raises. -/
def Obligations.ReadHighBitsCountsZeros : Prop :=
  ∀ (mem : Memory) (len : Nat) (r : BitReader), ReaderOk mem len r →
    match readHighBits mem len r with
    | .done q r' =>
      ReaderOk mem len r' ∧ bitsLeft mem len r = List.replicate q false ++ true :: bitsLeft mem len r'
    | .raised code _ => code = .invalidCompressedData ∧ ∀ b ∈ bitsLeft mem len r, b = false

/-- `CurrentBytePosition()` (40_bitreader.md R166): it steps back over whole bytes whose bits are all unconsumed, and
stops at the byte whose bits are partly consumed. -/
def Obligations.BytePositionCountsWholeBytes : Prop :=
  ∀ (mem : Memory) (r : BitReader),
    let p := currentBytePosition mem r
    let stepped := ((List.range' p (r.pos - p)).map (contributed mem)).sum
    p ≤ r.pos ∧ stepped ≤ r.valid ∧ (0 < p → r.valid - stepped < contributed mem (p - 1))

/-- The peek tables change no decoded value (41_golomb.md R205, R207): with and without them the decoder reads the same
code word and leaves the same bits, or both raise. The premise on the threshold holds in regular mode, where it is at
least 17. And the procedure itself, which is architectural (41_golomb.md R207; 40_bitreader.md R155, R158): PeekByte
refills exactly when `VALID < 8` and consumes nothing; up to `LUT_MAXK` an entry that is no sentinel and no longer than
VALID is skipped with its quotient and remainder, and everything else is read from where the peek left the reader. -/
def Obligations.PeekTablePathIsExact : Prop :=
  (∀ (mem : Memory) (len k limit qbpp : Nat) (r : BitReader), ReaderOk mem len r → k ≤ 24 → qbpp ≤ 24 →
    17 ≤ escThreshold limit qbpp →
      match readRegular mem len k limit qbpp r, readCodeWord mem len k limit qbpp .reg .esc r with
      | .done i r', .done i' r'' => i = i' ∧ bitsLeft mem len r' = bitsLeft mem len r''
      | .raised code _, .raised code' _ => code = code'
      | _, _ => False) ∧
  (∀ (mem : Memory) (len : Nat) (r : BitReader),
    (8 ≤ r.valid → peekByte mem len r = .done (topBits 8 r) r) ∧
    (r.valid < 8 →
      (∀ u, refill mem len r = .done () u → peekByte mem len r = .done (topBits 8 u) u) ∧
      ∀ code u, refill mem len r = .raised code u → peekByte mem len r = .raised code u)) ∧
  ∀ (mem : Memory) (len k limit qbpp : Nat) (r : BitReader),
    (15 < k → readRegular mem len k limit qbpp r = readCodeWord mem len k limit qbpp .reg .esc r) ∧
    (k ≤ 15 →
      (∀ v u, peekByte mem len r = .done v u →
        readRegular mem len k limit qbpp r =
          if (glut k v).1 ≠ 0 ∧ (glut k v).1 ≤ u.valid then
            .done (.reg ((glut k v).2 / 2 ^ k) ((glut k v).2 % 2 ^ k)) (skip (glut k v).1 u)
          else readCodeWord mem len k limit qbpp .reg .esc u) ∧
      ∀ code u, peekByte mem len r = .raised code u → readRegular mem len k limit qbpp r = .raised code u)

/-- In REGULAR, RUN_SCAN and RUN_INTERRUPT, what the block reads from its bit reader is what the decoder reads from the
unconsumed bits of the stream, and it leaves the reader in front of the bits the decoder leaves; when the stream ends inside the code word both fail
(30_encoding.md R110, R111; 20_memory.md R90; 41_golomb.md R200, R207). FINALIZE is left out: its reading consumes no
bit, and PAD itself looks at what is left (log 12). -/
def Obligations.FetchAgreesWithDecoder : Prop :=
  ∀ (s : State) (c : ParseCtx), ReaderOk s.input s.scan.len s.brd →
    (match c with
      | .regular k limit qbpp => k ≤ 24 ∧ qbpp ≤ 24 ∧ 17 ≤ escThreshold limit qbpp
      | .runScan j => j ≤ 15
      | .runInterrupt k _ qbpp => k ≤ 24 ∧ qbpp ≤ 24
      | _ => False) →
    match readCode c s with
    | .done i r' =>
      ReaderOk s.input s.scan.len r' ∧
        decode c (bitsLeft s.input s.scan.len s.brd) = .ok (i, bitsLeft s.input s.scan.len r')
    | .raised code _ =>
      code = .invalidCompressedData ∧ decode c (bitsLeft s.input s.scan.len s.brd) = .error .truncated

/-- The context the next code word is read in, exactly: in REGULAR the Golomb parameter of the sample's context, LIMIT and
qbpp (43_regular_mode.md R261, R262); in RUN_SCAN the tail width `J[RUNIDX]` (30_encoding.md R120); in RUN_INTERRUPT the
Golomb parameter of `TEMP` and `glimit = LIMIT - J[RUNIDX] - 1` with RUNIDX before the decrement (30_encoding.md R121,
44_run_mode.md R313, R314). And in a safe BUSY state it is one the bit reader can serve: no field is wider than 24 bits,
the regular escape threshold is at least 17 and the run-interruption threshold at least 1 (42_traits_predictor.md R220,
41_golomb.md R200, 40_bitreader.md R156). -/
def Obligations.CodeContextFitsReader : Prop :=
  ∀ s : State,
    let ctx := s.ctxr.get (contextNumber (quantised s.scan (neighbours s)))
    let t := riType s.scan (neighbours s)
    let ctx' := s.ctxi.get t
    let j := jOf (s.runIdx.get s.comp)
    (codeContext s =
      match s.fsm with
      | .regular => some (.regular (golombK ctx.n ctx.a) s.scan.limit s.scan.qbpp)
      | .runScan => some (.runScan j)
      | .runInterrupt =>
        some (.runInterrupt (golombK ctx'.n (ctx'.a + ctx'.n / 2 * t.val)) (s.scan.limit - j - 1) s.scan.qbpp)
      | .finalize => some .finalize
      | _ => none) ∧
    ∀ c : ParseCtx, LatchedInv s → ContextInv s → s.phase = .busy → codeContext s = some c →
      match c with
      | .regular k limit qbpp => k ≤ 24 ∧ qbpp ≤ 16 ∧ 17 ≤ escThreshold limit qbpp
      | .runScan j => j ≤ 15
      | .runInterrupt k glimit qbpp => k ≤ 24 ∧ qbpp ≤ 16 ∧ 1 ≤ escThreshold glimit qbpp
      | _ => True

/-! ## The byte forms -/

/-- PLAIN_BYTE and STUFFED_PAIR (40_bitreader.md R151, R152). A plain byte's eight bits enter the cache below the valid
ones. A stuffed pair's are fifteen, `11111111 z`, or only the seven of the `0xFF` when the cache fills between the two
bytes, with AFTER_FF set, and later the eight bits `1 z`. VALID and POS follow; without room for a byte nothing is
loaded. Nothing else changes. That a pair is one instruction, run in two halves when the cache fills, is the model's
(log 11). -/
def Obligations.ByteFormsLoadTheirBits : Prop :=
  ∀ (b : Byte) (z : BitVec 7) (s : State),
    (s.brd.valid ≤ 24 →
      exec (.plainByte b) s = .next { s with brd :=
        { s.brd with
          cache := s.brd.cache ||| (b.setWidth 32 <<< (24 - s.brd.valid))
          valid := s.brd.valid + 8
          pos := s.brd.pos + 1 } }) ∧
    (s.brd.afterFF = false → s.brd.valid ≤ 17 →
      exec (.stuffedPair z) s = .next { s with brd :=
        { cache := s.brd.cache ||| ((0x7F80#32 ||| z.setWidth 32) <<< (17 - s.brd.valid))
          valid := s.brd.valid + 15
          pos := s.brd.pos + 2
          afterFF := false } }) ∧
    (s.brd.afterFF = false → 17 < s.brd.valid → s.brd.valid ≤ 24 →
      exec (.stuffedPair z) s = .next { s with brd :=
        { cache := s.brd.cache ||| (0x7F#32 <<< (25 - s.brd.valid))
          valid := s.brd.valid + 7
          pos := s.brd.pos + 1
          afterFF := true } }) ∧
    (s.brd.afterFF = true → s.brd.valid ≤ 24 →
      exec (.stuffedPair z) s = .next { s with brd :=
        { cache := s.brd.cache ||| ((0x80#32 ||| z.setWidth 32) <<< (24 - s.brd.valid))
          valid := s.brd.valid + 8
          pos := s.brd.pos + 1
          afterFF := false } }) ∧
    (24 < s.brd.valid → exec (.plainByte b) s = .next s ∧ exec (.stuffedPair z) s = .next s)

/-- MARK (40_bitreader.md R151, 30_encoding.md R114): whatever the marker, nothing is loaded and nothing changes; with
an empty cache the refill raises `invalid_compressed_data` and the scan is over. -/
def Obligations.MarkLoadsNothing : Prop :=
  ∀ (m : Option (BitVec 7)) (s : State),
    (s.brd.valid ≠ 0 → exec (.mark m) s = .next s) ∧
    (s.brd.valid = 0 →
      exec (.mark m) s = .next { s with fsm := .error, phase := .error, err := .invalidCompressedData })

/-! ## Regular mode -/

/-- `GolombK` (43_regular_mode.md R261): the least `k` with `N·2^k ≥ A`, at most 24 for accumulators below ACC_LIMIT. -/
def Obligations.GolombParameterIsLeast : Prop :=
  ∀ n a : Nat, 1 ≤ n →
    a ≤ n * 2 ^ golombK n a ∧ (∀ j, j < golombK n a → n * 2 ^ j < a) ∧ (a < 2 ^ 24 → golombK n a ≤ 24)

/-- The error of a regular code word inverts the standard's mapping with its bias swap, and every MErrval names one
error (43_regular_mode.md R263, R264). -/
def Obligations.RegularErrorInvertsMapping : Prop :=
  ∀ (near k : Nat) (ctx : RegCtx),
    (∀ e : Int, 0 ≤ regularMap near k ctx e ∧ regularError near k ctx (regularMap near k ctx e).toNat = e) ∧
    ∀ m : Nat, regularMap near k ctx (regularError near k ctx m) = m

/-- `BiasCancel` (43_regular_mode.md R267): B is moved by N once towards `(-N, 0]` and forced into it, C follows by one
within -128 and 127, and a B already in `(-N, 0]` changes nothing. -/
def Obligations.BiasCancelForcesRange : Prop :=
  ∀ (b c : Int) (n : Nat), 1 ≤ n → -128 ≤ c → c ≤ 127 →
    (-(n : Int) < (biasCancel b c n).1 ∧ (biasCancel b c n).1 ≤ 0) ∧
    (-128 ≤ (biasCancel b c n).2 ∧ (biasCancel b c n).2 ≤ 127) ∧
    (b ≤ -(n : Int) → biasCancel b c n = (max (b + n) (-(n : Int) + 1), max (c - 1) (-128))) ∧
    (0 < b → biasCancel b c n = (min (b - n) 0, min (c + 1) 127)) ∧
    (-(n : Int) < b → b ≤ 0 → biasCancel b c n = (b, c))

/-- The context bounds survive every update that does not raise, and N is then at least 2 (43_regular_mode.md R268,
44_run_mode.md R317). -/
def Obligations.ContextUpdatesKeepBounds : Prop :=
  (∀ (p : Scan) (ctx : RegCtx) (e : Int), 3 ≤ p.reset → RegCtxOk p.reset ctx →
    ctx.a + e.natAbs < 2 ^ 24 → (ctx.b + e * (2 * p.near + 1)).natAbs < 2 ^ 24 →
      RegCtxOk p.reset (updateRegular p ctx e) ∧ 2 ≤ (updateRegular p ctx e).n) ∧
  ∀ (reset : Nat) (t : Fin 2) (ctx : RiCtx) (em : Nat) (e : Int), 3 ≤ reset → RiCtxOk reset ctx →
    riSum t ctx em < 2 ^ 24 →
      RiCtxOk reset (updateRi reset t ctx em e) ∧ 2 ≤ (updateRi reset t ctx em e).n

/-- The order of a regular update (43_regular_mode.md R266): A takes the magnitude of the quantised error, B the
dequantised error, both are halved with N (rounding down) when N has reached RESET, N then counts one more, and the
bias is cancelled with the new N. -/
def Obligations.RegularUpdateOrder : Prop :=
  ∀ (p : Scan) (ctx : RegCtx) (e : Int),
    let a := ctx.a + e.natAbs
    let b := ctx.b + e * (2 * p.near + 1)
    (ctx.n = p.reset →
      updateRegular p ctx e =
        { a := a / 2, n := ctx.n / 2 + 1,
          b := (biasCancel (b.fdiv 2) ctx.c (ctx.n / 2 + 1)).1, c := (biasCancel (b.fdiv 2) ctx.c (ctx.n / 2 + 1)).2 }) ∧
    (ctx.n ≠ p.reset →
      updateRegular p ctx e =
        { a := a, n := ctx.n + 1, b := (biasCancel b ctx.c (ctx.n + 1)).1, c := (biasCancel b ctx.c (ctx.n + 1)).2 })

/-- REG and ESC complete (43_regular_mode.md R260, R266, R270, R271): with the error and the sums within their bounds,
the context of the sample takes its update, CUR(COMP)[X] the reconstructed value, X advances, and nothing else of the
machine changes: no other context, register, row of another component, input byte or delivered line. -/
def Obligations.RegularSampleCompletes : Prop :=
  ∀ (i : Instr) (q r merr : Nat) (s : State),
    ((i = .reg q r ∧ r < 2 ^ golombK s.regularCtx.n s.regularCtx.a ∧
        merr = q * 2 ^ golombK s.regularCtx.n s.regularCtx.a + r) ∨ (i = .esc q r ∧ merr = r + 1)) →
      let n := neighbours s
      let g := quantised s.scan n
      let ctx := s.ctxr.get (contextNumber g)
      let k := golombK ctx.n ctx.a
      let e := regularError s.scan.near k ctx merr
      let px := correctPrediction s.scan.maxval (med n.ra n.rb n.rc + contextSign g * ctx.c)
      e.natAbs ≤ 65535 → ctx.a + e.natAbs < 2 ^ 24 → (ctx.b + e * (2 * s.scan.near + 1)).natAbs < 2 ^ 24 →
        exec i s = .next { s with
          ctxr := s.ctxr.set (contextNumber g).val (updateRegular s.scan ctx e) (contextNumber g).isLt
          lb := s.lb.set s.comp
            (s.line.setCur (s.line.cur.set (s.x + 1) (reconstruct s.scan px (contextSign g * e)).toNat))
          x := s.x + 1
          fsm := .classify }

/-- REG, ESC, RI and RIESC raise (43_regular_mode.md R265, R266; 44_run_mode.md R315, R316): an error above ERR_LIMIT or
a sum that reaches ACC_LIMIT ends the scan with `invalid_compressed_data`, and no context, sample, position or RUNIDX
is written. -/
def Obligations.SampleBoundsRaise : Prop :=
  ∀ (i : Instr) (q r : Nat) (s : State),
    let err := { s with fsm := .error, phase := .error, err := .invalidCompressedData }
    let merr := match i with | .reg q r => golombValue s.regularK q r | _ => r + 1
    let em := match i with | .ri q r => golombValue s.riK q r | _ => r + 1
    let e := regularError s.scan.near s.regularK s.regularCtx merr
    (i = .reg q r ∨ i = .esc q r →
      (65535 < e.natAbs ∨ 2 ^ 24 ≤ s.regularCtx.a + e.natAbs ∨
        2 ^ 24 ≤ (s.regularCtx.b + e * (2 * s.scan.near + 1)).natAbs) → exec i s = .next err) ∧
    (i = .ri q r ∨ i = .riesc q r →
      (65535 < (riError s.riK s.riType s.riCtx em).natAbs ∨
        2 ^ 24 ≤ s.riCtx.a + (em + 1 - s.riType.val) / 2) → exec i s = .next err)

/-- The two writes into a row (43_regular_mode.md R271, 44_run_mode.md R303). A sample write touches one column:
CUR(COMP)[X] reads as the value, every other column of that row, the other row, ROWSEL and every other component as
before. A run fill makes `n` columns read as the run value and leaves every other column. -/
def Obligations.RowWritesTouchTheirColumns : Prop :=
  (∀ (s : State) (v : Nat), s.x + 1 < s.line.cur.length →
    let t := s.writeSample v
    sampleAt t.line.cur (s.x + 1) = v ∧ t.line.prev = s.line.prev ∧ t.line.rowSel = s.line.rowSel ∧ t.x = s.x + 1 ∧
      (∀ i, i ≠ s.x + 1 → sampleAt t.line.cur i = sampleAt s.line.cur i) ∧
      ∀ c, c ≠ s.comp → t.lb.get c = s.lb.get c) ∧
  ∀ (row : List Nat) (start n v i : Nat),
    (fillRow row start n v).length = row.length ∧
      sampleAt (fillRow row start n v) i =
        if start ≤ i ∧ i < start + n ∧ i < row.length then v else sampleAt row i

/-! ## Traits, prediction, reconstruction -/

/-- The trait bounds over every legal configuration (42_traits_predictor.md R220). -/
def Obligations.TraitBounds : Prop :=
  ∀ c : Cfg, (latch c).legal = true →
    let p := latch c
    2 ≤ p.range ∧ p.range ≤ 65536 ∧ (p.near = 0 → p.range = p.maxval + 1) ∧
      (p.range ≤ 2 ^ p.qbpp ∧ ∀ x, p.range ≤ 2 ^ x → p.qbpp ≤ x) ∧ 1 ≤ p.qbpp ∧ p.qbpp ≤ 16 ∧
      2 ≤ p.bpp ∧ p.bpp ≤ 16 ∧ p.qbpp ≤ p.bpp ∧ 20 ≤ p.limit ∧ p.limit ≤ 64 ∧
      17 ≤ p.limit - p.qbpp - 1 ∧ 2 ≤ p.a0 ∧ p.a0 ≤ 1024

/-- The values a 0 in a configuration field selects (10_state.md R34): MAXVAL, RESET and each threshold take their
defaults independently, and the orderings of the thresholds are checked on the effective values. -/
def Obligations.ZeroFieldsTakeDefaults : Prop :=
  ∀ c : Cfg,
    let p := latch c
    let t := defaultThresholds p.maxval p.near
    p.maxval = (if c.maxval = 0 then 2 ^ c.p.toNat - 1 else c.maxval.toNat) ∧
      p.reset = (if c.reset = 0 then 64 else c.reset.toNat) ∧
      p.t1 = (if c.t1 = 0 then t.1 else c.t1.toNat) ∧ p.t2 = (if c.t2 = 0 then t.2.1 else c.t2.toNat) ∧
      p.t3 = (if c.t3 = 0 then t.2.2 else c.t3.toNat) ∧
      (p.legal = true → p.near + 1 ≤ p.t1 ∧ p.t1 ≤ p.t2 ∧ p.t2 ≤ p.t3 ∧ p.t3 ≤ p.maxval)

/-- The default thresholds are always legal ones: with a legal MAXVAL and NEAR, `NEAR + 1 ≤ T1 ≤ T2 ≤ T3 ≤ MAXVAL`
(42_traits_predictor.md R224, 10_state.md R32, R34). -/
def Obligations.DefaultThresholdsAreLegal : Prop :=
  ∀ maxval near : Nat, 1 ≤ maxval → maxval ≤ 65535 → near ≤ min 255 (maxval / 2) →
    let t := defaultThresholds maxval near
    near + 1 ≤ t.1 ∧ t.1 ≤ t.2.1 ∧ t.2.1 ≤ t.2.2 ∧ t.2.2 ≤ maxval

/-- The gradient quantiser (42_traits_predictor.md R231): it is odd, not negative on gradients that are not, and its
magnitude is decided by NEAR and the thresholds. -/
def Obligations.QuantiserIsOdd : Prop :=
  ∀ (p : Scan) (d : Int), p.near + 1 ≤ p.t1 → p.t1 ≤ p.t2 → p.t2 ≤ p.t3 →
    quantize p (-d) = -quantize p d ∧ (0 ≤ d → 0 ≤ quantize p d) ∧
      (quantize p d).natAbs =
        (if p.t3 ≤ d.natAbs then 4 else if p.t2 ≤ d.natAbs then 3 else if p.t1 ≤ d.natAbs then 2
          else if p.near < d.natAbs then 1 else 0)

/-- The context number (42_traits_predictor.md R240, R241): for quantised gradients it is the magnitude of
`81·Q1 + 9·Q2 + Q3`, from 1 to 364 unless the run condition holds, and SIGN is -1 exactly when the first non-zero of
the three is negative. -/
def Obligations.ContextNumberFoldsSigns : Prop :=
  ∀ q1 q2 q3 : Int, q1.natAbs ≤ 4 → q2.natAbs ≤ 4 → q3.natAbs ≤ 4 →
    (contextNumber (q1, q2, q3)).val = (81 * q1 + 9 * q2 + q3).natAbs ∧
      (runCondition (q1, q2, q3) = false → 1 ≤ (contextNumber (q1, q2, q3)).val) ∧
      (contextSign (q1, q2, q3) = -1 ↔ firstNonZeroNegative (q1, q2, q3) = true) ∧
      contextNumber (-q1, -q2, -q3) = contextNumber (q1, q2, q3) ∧
      (runCondition (q1, q2, q3) = false → contextSign (-q1, -q2, -q3) = -contextSign (q1, q2, q3))

/-- The median-edge predictor (42_traits_predictor.md R245), which lies between `Ra` and `Rb`. -/
def Obligations.MedianPredictorLiesBetween : Prop :=
  ∀ ra rb rc : Int,
    (max ra rb ≤ rc → med ra rb rc = min ra rb) ∧ (rc ≤ min ra rb → med ra rb rc = max ra rb) ∧
      (min ra rb < rc → rc < max ra rb → med ra rb rc = ra + rb - rc) ∧
      min ra rb ≤ med ra rb rc ∧ med ra rb rc ≤ max ra rb

/-- With NEAR = 0 the reconstruction is `(Px + E) mod RANGE` for the sums conforming errors give (43_regular_mode.md
R270), and it always lies in `[0, MAXVAL]`. -/
def Obligations.LosslessReconstructionIsModular : Prop :=
  ∀ (p : Scan) (px e : Int),
    (0 ≤ reconstruct p px e ∧ reconstruct p px e ≤ p.maxval) ∧
    (p.near = 0 → p.range = p.maxval + 1 → -((p.maxval : Int) + 1) ≤ px + e → px + e ≤ 2 * p.maxval + 1 →
      reconstruct p px e = (px + e) % p.range)

/-- The reconstruction undoes the encoder's fold within NEAR, and exactly when NEAR = 0, for every legal configuration,
prediction and sample (42_traits_predictor.md R228, 43_regular_mode.md R270). -/
def Obligations.ReconstructionIsWithinNear : Prop :=
  ∀ (c : Cfg) (px x : Int), (latch c).legal = true → 0 ≤ px → px ≤ (latch c).maxval → 0 ≤ x → x ≤ (latch c).maxval →
    (reconstruct (latch c) px (computeErrorValue (latch c) (x - px)) - x).natAbs ≤ (latch c).near

/-! ## Run mode -/

/-- The table `J` (10_state.md R53), and that RUN1 completes (44_run_mode.md R301, R302, R304): it counts `min(2^J, remaining - cnt)` samples; RUNIDX advances,
up to 31, when that is a full `2^J`, and a 1 bit that the end of the line truncates does not advance it; reaching the
end of the line fills it with Ra and ends the run, otherwise only the count changes. Nothing else does. That the count
stands in the field runCnt, which a run leaves at 0, is the model's choice (log 9). -/
def Obligations.RunBitOneCounts : Prop :=
  (List.finRange 32).map jOf =
    [0, 0, 0, 0, 1, 1, 1, 1, 2, 2, 2, 2, 3, 3, 3, 3, 4, 4, 5, 5, 6, 6, 7, 7, 8, 9, 10, 11, 12, 13, 14, 15] ∧
  ∀ s : State,
    let full := 2 ^ jOf (s.runIdx.get s.comp)
    let n := min full (s.scan.width - s.x - s.runCnt)
    ∃ idx : Fin 32,
      idx.val = (if full ≤ s.scan.width - s.x - s.runCnt then min 31 ((s.runIdx.get s.comp).val + 1)
        else (s.runIdx.get s.comp).val) ∧
      (s.runCnt + n = s.scan.width - s.x →
        exec .run1 s = .next { s with
          runIdx := s.runIdx.set s.comp idx
          lb := s.lb.set s.comp
            (s.line.setCur (fillRow s.line.cur (s.x + 1) (s.runCnt + n) (sampleAt s.line.cur s.x)))
          x := s.x + (s.runCnt + n)
          runCnt := 0
          fsm := .classify }) ∧
      (s.runCnt + n ≠ s.scan.width - s.x →
        exec .run1 s = .next { s with runIdx := s.runIdx.set s.comp idx, runCnt := s.runCnt + n })

/-- RUN0 (44_run_mode.md R301, R305, R306, R319): short of the end of the line the samples are filled and the
interruption sample comes next, with RUNIDX as it was; exactly at the end of the line RUNIDX is decremented, down to 0,
and the line is full; past it `invalid_compressed_data` is raised and no sample of the run is written. Nothing else
changes. The field runCnt is the model's choice (log 9). -/
def Obligations.RunStopEndsRun : Prop :=
  ∀ (t : Nat) (s : State), s.x ≤ s.scan.width →
    (s.x + s.runCnt + t < s.scan.width →
      exec (.run0 t) s = .next { s with
        lb := s.lb.set s.comp
          (s.line.setCur (fillRow s.line.cur (s.x + 1) (s.runCnt + t) (sampleAt s.line.cur s.x)))
        x := s.x + (s.runCnt + t)
        runCnt := 0
        fsm := .runInterrupt }) ∧
    (s.x + s.runCnt + t = s.scan.width →
      exec (.run0 t) s = .next { s with
        runIdx := s.runIdx.set s.comp ⟨(s.runIdx.get s.comp).val - 1, by omega⟩
        lb := s.lb.set s.comp
          (s.line.setCur (fillRow s.line.cur (s.x + 1) (s.runCnt + t) (sampleAt s.line.cur s.x)))
        x := s.x + (s.runCnt + t)
        runCnt := 0
        fsm := .classify }) ∧
    (s.scan.width - s.x < s.runCnt + t →
      exec (.run0 t) s = .next { s with fsm := .error, phase := .error, err := .invalidCompressedData })

/-- Run-interruption type, prediction and sign (44_run_mode.md R310, R312). -/
def Obligations.InterruptionPredictionAndSign : Prop :=
  ∀ (p : Scan) (n : Neighbours),
    ((n.ra - n.rb).natAbs ≤ p.near → riType p n = 1 ∧ riPrediction 1 n = n.ra ∧ riSign 1 n = 1) ∧
    (p.near < (n.ra - n.rb).natAbs → riType p n = 0 ∧ riPrediction 0 n = n.rb ∧
      (n.rb < n.ra → riSign 0 n = -1) ∧ (n.ra ≤ n.rb → riSign 0 n = 1))

/-- The run-interruption operand assembly inverts the standard's mapping `2·|Errval| - RItype - map` (44_run_mode.md
R314). -/
def Obligations.InterruptionErrorInvertsMapping : Prop :=
  ∀ (k : Nat) (t : Fin 2) (ctx : RiCtx) (e : Int) (em : Nat),
    (em : Int) = 2 * e.natAbs - t.val - riMap k ctx e → riError k t ctx em = e

/-- RI and RIESC complete (44_run_mode.md R311, R313, R316, R318, R319, R320): with the error and the sum within their
bounds, the context of the type takes its update, CUR(COMP)[X] the reconstructed value, X advances, RUNIDX is
decremented, down to 0, and nothing else of the machine changes. The field b, held at its value, is log 14. -/
def Obligations.InterruptionSampleCompletes : Prop :=
  ∀ (i : Instr) (q r em : Nat) (s : State),
    let n := neighbours s
    let t := riType s.scan n
    let ctx := s.ctxi.get t
    let k := golombK ctx.n (ctx.a + ctx.n / 2 * t.val)
    ((i = .ri q r ∧ r < 2 ^ k ∧ em = q * 2 ^ k + r) ∨ (i = .riesc q r ∧ em = r + 1)) →
      let e := riError k t ctx em
      let a := ctx.a + (em + 1 - t.val) / 2
      let nn := if e < 0 then ctx.nn + 1 else ctx.nn
      e.natAbs ≤ 65535 → a < 2 ^ 24 →
        exec i s = .next { s with
          ctxi := s.ctxi.set t.val
            (if ctx.n = s.scan.reset then { a := a / 2, b := ctx.b, n := ctx.n / 2 + 1, nn := nn / 2 }
              else { a := a, b := ctx.b, n := ctx.n + 1, nn := nn }) t.isLt
          lb := s.lb.set s.comp (s.line.setCur
            (s.line.cur.set (s.x + 1) (reconstruct s.scan (riPrediction t n) (riSign t n * e)).toNat))
          x := s.x + 1
          runIdx := s.runIdx.set s.comp ⟨(s.runIdx.get s.comp).val - 1, by omega⟩
          fsm := .classify }

/-! ## The scan controller, the sink and the host -/

/-- START (10_state.md R36, R57; 70_reset_and_hazards.md R421): no effect while BUSY; otherwise a legal configuration is
latched and the per-scan state takes its initial values. The world outside the block, the configuration and BYTEPOS
do not change. The values of components from COMPS on are the model's choice (log 16). -/
def Obligations.StartBeginsScan : Prop :=
  ∀ s : State,
    (s.phase = .busy → exec .ctrlStart s = .next s) ∧
    (s.phase ≠ .busy → (latch s.cfg).legal = true →
      let p := latch s.cfg
      exec .ctrlStart s = .next { s with
        scan := p, lines := 0, err := .none, phase := .busy, fsm := .lineStart
        brd := { cache := 0, valid := 0, pos := 0, afterFF := false }
        ctxr := Vector.replicate 365 { a := p.a0, b := 0, c := 0, n := 1 }
        ctxi := Vector.replicate 2 { a := p.a0, b := 0, n := 1, nn := 0 }
        runIdx := { c0 := 0, c1 := 0, c2 := 0, c3 := 0 }
        lb := PerComp.same
          { row0 := List.replicate (p.width + 2) 0, row1 := List.replicate (p.width + 2) 0, rowSel := false }
        comp := 0, y := 0, x := 0, runCnt := 0 })

/-- A refused START (10_state.md R37, R32): a latched field outside its legal values, after defaults, gives
`parameter_value_not_supported` and PHASE = ERROR, and delivers and reads nothing. -/
def Obligations.StartRefusesIllegalConfiguration : Prop :=
  ∀ s : State, s.phase ≠ .busy →
    let p := latch s.cfg
    ¬ ((1 ≤ p.width ∧ p.width ≤ 65535) ∧ (1 ≤ p.height ∧ p.height ≤ 65535) ∧ (2 ≤ p.p ∧ p.p ≤ 16) ∧
        (1 ≤ p.maxval ∧ p.maxval ≤ 2 ^ p.p - 1) ∧ p.near ≤ min 255 (p.maxval / 2) ∧
        (p.near + 1 ≤ p.t1 ∧ p.t1 ≤ p.maxval) ∧ (p.t1 ≤ p.t2 ∧ p.t2 ≤ p.maxval) ∧
        (p.t2 ≤ p.t3 ∧ p.t3 ≤ p.maxval) ∧ (3 ≤ p.reset ∧ p.reset ≤ max 255 p.maxval) ∧
        (1 ≤ p.comps ∧ p.comps ≤ 4) ∧ ((p.ilv = .none ∧ p.comps = 1) ∨ p.ilv = .line)) →
      exec .ctrlStart s = .next { s with
        scan := p, lines := 0, err := .parameterValueNotSupported, phase := .error, fsm := .error }

/-- The register map (10_state.md R32): what a configuration register reads after a write, that a write changes what no
other register reads, that read-only registers and register numbers not listed ignore writes, that CTRL and numbers not
listed read as 0, and where the status registers' fields stand. And the step that takes a pending read: the host gets the
register's value, and nothing else changes. That the value stands in the field readData is the model's choice
(log 8). -/
def Obligations.RegisterWritesReadBack : Prop :=
  ∀ (s : State) (num : Nat) (v : Word),
    let widths := [(1, 16), (2, 16), (3, 5), (4, 16), (5, 8), (6, 16), (7, 16), (8, 16), (9, 16), (10, 3), (11, 2), (12, 32)]
    (∀ w, (num, w) ∈ widths → (regRead num (regWrite num v s)).toNat = v.toNat % 2 ^ w) ∧
    (∀ other, other ≠ num → regRead other (regWrite num v s) = regRead other s) ∧
    ((∀ w, (num, w) ∉ widths) → regWrite num v s = s) ∧
    (num ∉ [1, 2, 3, 4, 5, 6, 7, 8, 9, 10, 11, 12, 16, 17, 18] → regRead num s = 0) ∧
    (regRead 16 s).toNat = s.phase.number + 256 * s.err.number ∧ regRead 17 s = s.bytepos ∧
    (regRead 18 s).toNat = s.lines.toNat ∧
    ∀ rest, s.host = .read num :: rest → step s = .next { s with host := rest, readData := regRead num s }

/-- A host write, at any time (10_state.md R35, 30_encoding.md R126). Register 0x00 with bit 0 set is CTRL.START,
whatever the reserved bits; every other write is only stored: the scan constants and the scan in progress do not
change, and a write of CTRL with bit 0 clear has no effect. -/
def Obligations.HostWriteIsStoredOrStart : Prop :=
  ∀ (s : State) (num : Nat) (v : Word) (rest : List HostMove), s.host = .write num v :: rest →
    (num = 0 → v.getLsbD 0 = true → step s = exec .ctrlStart { s with host := rest }) ∧
    (num ≠ 0 ∨ v.getLsbD 0 = false →
      step s = .next { s with cfg := cfgWrite num v s.cfg, host := rest } ∧ (num = 0 → cfgWrite num v s.cfg = s.cfg))

/-- A step runs the decoded instruction (45_scan_control.md R345): in REGULAR, RUN_INTERRUPT and FINALIZE, when the code
word read in the controller's context is `i`, the step is `exec i` at the state whose bit reader has moved past it;
when the bit reader raises, the step takes the error. In RUN_SCAN that holds for every code word of the run, and the
step goes on until the controller has left RUN_SCAN: the state it answers is never in RUN_SCAN. The model's choices here
are the split of a step into reading and running (log 11), the field runCnt, which starts at 0 (log 9), and the number
of turns of the loop, which is enough (log 26). -/
def Obligations.StepRunsDecodedInstruction : Prop :=
  ∀ s : State, s.host = [] →
    (∀ c, codeContext s = some c → s.fsm ≠ .runScan →
      (∀ i r, readCode c s = .done i r → step s = exec i { s with brd := r }) ∧
      ∀ code r, readCode c s = .raised code r →
        step s = .next { s with brd := r, fsm := .error, phase := .error, err := code }) ∧
    (s.fsm = .runScan →
      step s = runScanLoop exec (s.scan.width - s.x + 1) { s with runCnt := 0 } ∧
      ∀ (turns : Nat) (u : State),
        (∀ i r u', readCode (.runScan u.j) u = .done i r → exec i { u with brd := r } = .next u' →
          runScanLoop exec (turns + 1) u = if u'.fsm = .runScan then runScanLoop exec turns u' else .next u') ∧
        ∀ code r, readCode (.runScan u.j) u = .raised code r →
          runScanLoop exec (turns + 1) u = .next { u with brd := r, fsm := .error, phase := .error, err := code }) ∧
    (s.fsm = .runScan → ∀ t, step s = .next t → t.fsm ≠ .runScan)

/-- LINE_START (45_scan_control.md R341): afterwards the sample at column 0 has `Ra = Rb`, and the sample at the last
column has `Rd = Rb`; the samples of columns 0 to WIDTH - 1 of both rows are untouched. -/
def Obligations.LineStartSetsBorders : Prop :=
  ∀ s : State, s.host = [] → s.fsm = .lineStart → s.line.cur.length = s.scan.width + 2 →
    s.line.prev.length = s.scan.width + 2 → 1 ≤ s.scan.width →
      ∃ t, step s = .next t ∧ t.fsm = .classify ∧ t.x = 0 ∧
        sampleAt t.line.cur 0 = sampleAt s.line.prev 1 ∧
        sampleAt t.line.prev (s.scan.width + 1) = sampleAt s.line.prev s.scan.width ∧
        (∀ i, i ≠ 0 → sampleAt t.line.cur i = sampleAt s.line.cur i) ∧
        (∀ i, i ≠ s.scan.width + 1 → sampleAt t.line.prev i = sampleAt s.line.prev i) ∧
        (neighbours t).ra = (neighbours t).rb ∧
        (let u := { t with x := s.scan.width - 1 }
         (neighbours u).rd = (neighbours u).rb) ∧
        t = { s with lb := s.lb.set s.comp t.line, x := 0, fsm := .classify }

/-- CLASSIFY (45_scan_control.md R345, R346): the end of the line, a run when all three quantised gradients are 0, else
a regular sample; nothing else changes. -/
def Obligations.ClassifyChoosesMode : Prop :=
  ∀ s : State, s.host = [] → s.fsm = .classify →
    let q := quantised s.scan (neighbours s)
    (s.x = s.scan.width → step s = .next { s with fsm := .lineEnd }) ∧
    (s.x ≠ s.scan.width → q = (0, 0, 0) → step s = .next { s with fsm := .runScan }) ∧
    (s.x ≠ s.scan.width → q ≠ (0, 0, 0) → step s = .next { s with fsm := .regular })

/-- LINE_END (45_scan_control.md R345, R348, R351): after the last component's line the sink receives the rows of all
components one after another; on ok LINES increments, the rows of the scan's components swap and the next line starts
or the scan is finalised; on too_small `destination_buffer_too_small` is raised and the line is not counted. That a sink
with no listed answer answers ok is the model's choice (log 7). -/
def Obligations.LineEndDelivers : Prop :=
  ∀ s : State, s.host = [] → s.fsm = .lineEnd →
    let call := fun reply : SinkReply => SinkCall.mk s.y (deliveredRow s) s.scan.width s.scan.width reply
    (s.comp.val + 1 < s.scan.comps → step s = .next { s with comp := s.comp + 1, fsm := .lineStart }) ∧
    (s.scan.comps ≤ s.comp.val + 1 →
      (∀ rest, s.sinkReplies = .tooSmall :: rest →
        step s = .next { s with
          sinkReplies := rest, delivered := s.delivered ++ [call .tooSmall]
          fsm := .error, phase := .error, err := .destinationBufferTooSmall }) ∧
      (s.sinkReplies.head? ≠ some .tooSmall →
        step s = .next { s with
          sinkReplies := s.sinkReplies.tail, delivered := s.delivered ++ [call .ok]
          lines := s.lines + 1, lb := s.lb.mapBelow s.scan.comps LineBuf.toggle, comp := 0, y := s.y + 1
          fsm := if s.y + 1 < s.scan.height then .lineStart else .finalize }))

/-- The delivered row (45_scan_control.md R351): sample `x` of component `c` stands at `c·WIDTH + x`. -/
def Obligations.DeliveredRowLayout : Prop :=
  ∀ (s : State) (c : Fin Config.compMax) (x : Nat), SampleInv s → s.phase = .busy → s.scan.comps ≤ 4 →
    c.val < s.scan.comps → x < s.scan.width →
      (deliveredRow s)[c.val * s.scan.width + x]? = some (sampleAt (s.lb.get c).cur (x + 1)) ∧
        (deliveredRow s).length = s.scan.comps * s.scan.width

/-- PAD, the end-of-scan check (40_bitreader.md R163, 45_scan_control.md R349): with a `0xFF` next and no 1 bit left the
scan is DONE and BYTEPOS takes the byte position; with a 1 bit left, or no `0xFF` next even after one more bit, it
raises `too_much_compressed_data`, and when that bit does not exist, what the bit reader raises. That `n` plays no part is
the model's reading (log 12). -/
def Obligations.PaddingCheckEndsScan : Prop :=
  ∀ (n : Nat) (s : State),
    let ends := fun r : BitReader =>
      Host.Outcome.next (φ := Fault) (ρ := Refusal) (if r.cache = 0 then
        { s with brd := r, bytepos := BitVec.ofNat 32 (currentBytePosition s.input r), phase := .done, fsm := .done }
      else { s with brd := r, fsm := .error, phase := .error, err := .tooMuchCompressedData })
    (nextIsFF s.input s.scan.len s.brd = true → exec (.pad n) s = ends s.brd) ∧
    (nextIsFF s.input s.scan.len s.brd = false →
      (∀ code r, readBit s.input s.scan.len s.brd = .raised code r →
        exec (.pad n) s = .next { s with brd := r, fsm := .error, phase := .error, err := code }) ∧
      ∀ b r, readBit s.input s.scan.len s.brd = .done b r →
        (nextIsFF s.input s.scan.len r = true → exec (.pad n) s = ends r) ∧
        (nextIsFF s.input s.scan.len r = false →
          exec (.pad n) s =
            .next { s with brd := r, fsm := .error, phase := .error, err := .tooMuchCompressedData }))

/-! ## Whole-machine rules -/

/-- No instruction writes the input bytes, the configuration, the host's moves or what the sink has received, and only
START changes the scan constants, the line number, LINES and the component (20_memory.md R80, R82; 10_state.md R35,
R38). The fields of the outside world are the model's (log 1, log 7, log 8). -/
def Obligations.InstructionsLeaveTheWorldAlone : Prop :=
  ∀ (i : Instr) (s t : State), exec i s = .next t →
    (∀ a, t.input.read a = s.input.read a) ∧ t.cfg = s.cfg ∧ t.host = s.host ∧ t.sinkReplies = s.sinkReplies ∧
      t.delivered = s.delivered ∧ t.readData = s.readData ∧
      (i ≠ .ctrlStart → t.scan = s.scan ∧ t.lines = s.lines ∧ t.y = s.y ∧ t.comp = s.comp) ∧
      ((∀ n, i ≠ .pad n) → t.bytepos = s.bytepos)

/-- BYTEPOS is written when the scan reaches DONE, where it takes the value of CurrentBytePosition after the end-of-scan
check, and only then, so an error leaves it as it was (10_state.md R40); power-on reset apart. -/
def Obligations.BytePositionWrittenOnlyAtDone : Prop :=
  ∀ s t : State, step s = .next t →
    (s.phase = .busy → t.phase = .done →
      t.bytepos = BitVec.ofNat 32 (currentBytePosition t.input t.brd)) ∧
    (t.bytepos ≠ s.bytepos → (s.fsm = .finalize ∧ t.phase = .done) ∨ s.host.head? = some .powerOn)

/-- Lines reach the sink one at a time, whole and in order (45_scan_control.md R351, R352): a step either makes no call
or it is a LINE_END step that makes one call for line Y, with the whole row, WIDTH as the pixel count and as the stride,
and the line counts exactly when the sink answers ok. -/
def Obligations.LinesAreDeliveredOneAtATime : Prop :=
  ∀ s t : State, step s = .next t →
    t.delivered = s.delivered ∨
      (s.fsm = .lineEnd ∧ ∃ call : SinkCall, t.delivered = s.delivered ++ [call] ∧ call.y = s.y ∧
        call.row = deliveredRow s ∧ call.pixelCount = s.scan.width ∧ call.stride = s.scan.width ∧
        ((call.reply = .ok ∧ t.lines = s.lines + 1 ∧ t.y = s.y + 1) ∨
          (call.reply = .tooSmall ∧ t.lines = s.lines ∧ t.phase = .error ∧ t.err = .destinationBufferTooSmall)))

/-- An error is sticky (60_exceptions.md R383, R384, R387): with PHASE = ERROR, no move but START and power-on reset
changes PHASE, ERR, BYTEPOS, LINES, the bit reader or what has been delivered. That the bit reader keeps what it held is
the model's reading (log 22). -/
def Obligations.ErrorIsStickyUntilStart : Prop :=
  ∀ s t : State, StatusInv s → s.phase = .error → step s = .next t →
    (∀ v rest, s.host = .write 0 v :: rest → v.getLsbD 0 = false) → s.host.head? ≠ some .powerOn →
      t.phase = .error ∧ t.fsm = .error ∧ t.err = s.err ∧ t.bytepos = s.bytepos ∧ t.lines = s.lines ∧
        t.brd = s.brd ∧ t.delivered = s.delivered

/-- The block never stops (10_state.md R30): every step answers a next state, except the one host move the spec
excludes, the change of a byte of a running scan (70_reset_and_hazards.md R431), which is a fault (log 6). -/
def Obligations.StepAlwaysCompletes : Prop :=
  ∀ s : State,
    ((∀ i b rest, s.host = .supply i b :: rest → ¬ (s.phase = .busy ∧ i.toNat < s.scan.len)) → ∃ t, step s = .next t) ∧
    (∀ i b rest, s.host = .supply i b :: rest → s.phase = .busy → i.toNat < s.scan.len →
      step s = .fault .inputChangedWhileBusy)

/-- Every scan ends (70_reset_and_hazards.md R424, R426): from the start of line 0, with the host only waiting, DONE or
ERROR is reached within `HEIGHT·COMPS·(3·WIDTH + 3) + 2` transitions. -/
def Obligations.ScanTerminatesWithinBound : Prop :=
  ∀ s : State, StatusInv s → PositionInv s → s.host = [] → s.fsm = .lineStart → s.y = 0 → s.comp = 0 →
    ∃ n t, n ≤ s.scan.height * s.scan.comps * (3 * s.scan.width + 3) + 2 ∧ Host.Core.run Sys2Proof.core n s = .next t ∧
      (t.phase = .done ∨ t.phase = .error)

/-! ## Reset and invariants -/

/-- Power-on reset (10_state.md R56): every configuration register, STATUS, BYTEPOS and LINES read as 0 and the
controller is IDLE, at reset and after a power-on move of the host in any state. -/
def Obligations.ResetRegistersReadZero : Prop :=
  (∀ num, regRead num State.reset = 0) ∧ State.reset.fsm = .idle ∧ State.reset.phase = .idle ∧
    ∀ (s : State) (rest : List HostMove), s.host = .powerOn :: rest →
      ∃ t, step s = .next t ∧ (∀ num, regRead num t = 0) ∧ t.fsm = .idle ∧ t.phase = .idle ∧ t.err = .none

/-- The state after reset is safe. -/
def Obligations.ResetIsSafe : Prop := Inv State.reset

/-- The input byte space (20_memory.md R80): every step keeps its canonical form, and a supplied byte reads back while
every other position reads as before; the step that takes a pending supply stores that byte and changes nothing else,
unless it is a byte of a running scan (log 6). The canonical form and what a byte never supplied reads as are the
model's (log 3). -/
def Obligations.MemoryStaysCanonical : Prop :=
  (∀ s t : State, MemoryInv s → step s = .next t → MemoryInv t) ∧
  (∀ (s : State) (i : BitVec 32) (b : Byte) (rest : List HostMove), s.host = .supply i b :: rest →
    ¬ (s.phase = .busy ∧ i.toNat < s.scan.len) → step s = .next (supplyByte i b { s with host := rest })) ∧
  ∀ (s : State) (i : BitVec 32) (b : Byte), MemoryInv s →
    (supplyByte i b s).input.read i.toNat = b ∧
      ∀ a, a ≠ i.toNat → (supplyByte i b s).input.read a = s.input.read a

/-- Every step keeps PHASE in agreement with FSM and ERR at 0 unless PHASE = ERROR, where it is one of the codes 1 to 4,
so the outer parser's codes are never raised (10_state.md R39, 60_exceptions.md R381); and the scan constants of a
running scan stay legal ones (10_state.md R37, R38). -/
def Obligations.StepKeepsStatusAndConstants : Prop :=
  ∀ s t : State, StatusInv s → LatchedInv s → step s = .next t → StatusInv t ∧ LatchedInv t

/-- Every step keeps the bit-reader invariant (40_bitreader.md R150; 10_state.md R42, R43). -/
def Obligations.StepKeepsReaderInvariant : Prop :=
  ∀ s t : State, ReaderInv s → step s = .next t → ReaderInv t

/-- Every step keeps the bounds of every context (10_state.md R52, 43_regular_mode.md R268, 44_run_mode.md R317). -/
def Obligations.StepKeepsContextBounds : Prop :=
  ∀ s t : State, LatchedInv s → ContextInv s → step s = .next t → ContextInv t

/-- Every step keeps the rows of all line buffers at WIDTH + 2 samples in `[0, MAXVAL]` (10_state.md R51). R51 gives rows to the components of the scan; that the rows of components from COMPS on have that form
too is the model's choice (log 16). -/
def Obligations.StepKeepsSamplesInRange : Prop :=
  ∀ s t : State, SampleInv s → step s = .next t → SampleInv t

/-- Every step keeps the scan position inside the image and LINES equal to the line number Y (10_state.md R41, R45). -/
def Obligations.StepKeepsPositionInImage : Prop :=
  ∀ s t : State, PositionInv s → step s = .next t → PositionInv t
end

