-- ==== Sys2Proof/Laws/Reader.lean ====
section
/-! SUPPORT. The bit reader: the fields of its moves, the unfoldings of its loops, and how each read operation ends. -/

namespace Sys2Proof.Machine

/-! ## Sequencing -/

@[simp] theorem Read.andThen_done {α β : Type} (a : α) (r : BitReader) (f : α → BitReader → Read β) :
    (Read.done a r).andThen f = f a r := rfl

@[simp] theorem Read.andThen_raised {α β : Type} (code : ErrCode) (r : BitReader) (f : α → BitReader → Read β) :
    (Read.raised code r).andThen f = .raised code r := rfl

/-- A sequence that ends well did so in both parts. -/
theorem Read.andThen_eq_done {α β : Type} {m : Read α} {f : α → BitReader → Read β} {b : β} {r : BitReader}
    (h : m.andThen f = .done b r) : ∃ a r', m = .done a r' ∧ f a r' = .done b r := by
  cases m with
  | done a r' => exact ⟨a, r', rfl, h⟩
  | raised code r' => simp at h

/-- A sequence that raises did so in one of its parts. -/
theorem Read.andThen_eq_raised {α β : Type} {m : Read α} {f : α → BitReader → Read β} {code : ErrCode}
    {r : BitReader} (h : m.andThen f = .raised code r) :
    m = .raised code r ∨ ∃ a r', m = .done a r' ∧ f a r' = .raised code r := by
  cases m with
  | done a r' => exact .inr ⟨a, r', rfl, h⟩
  | raised code' r' => exact .inl (by simpa using h)

/-! ## Fields -/

@[simp] theorem skip_valid (n : Nat) (r : BitReader) : (skip n r).valid = r.valid - n := rfl
@[simp] theorem skip_pos (n : Nat) (r : BitReader) : (skip n r).pos = r.pos := rfl
@[simp] theorem skip_afterFF (n : Nat) (r : BitReader) : (skip n r).afterFF = r.afterFF := rfl
@[simp] theorem skip_cache (n : Nat) (r : BitReader) : (skip n r).cache = r.cache <<< n := rfl

@[simp] theorem loadBits_valid (bits n : Nat) (f : Bool) (r : BitReader) :
    (loadBits bits n f r).valid = r.valid + n := rfl
@[simp] theorem loadBits_pos (bits n : Nat) (f : Bool) (r : BitReader) : (loadBits bits n f r).pos = r.pos + 1 := rfl
@[simp] theorem loadBits_afterFF (bits n : Nat) (f : Bool) (r : BitReader) : (loadBits bits n f r).afterFF = f := rfl

theorem hasRoom_iff (r : BitReader) : r.hasRoom = true ↔ r.valid ≤ 24 := by
  simp [BitReader.hasRoom, Config.cacheWidth]

/-! ## How an operation ends -/

/-- `takeBits` takes what is there or leaves the reader alone. -/
theorem takeBits_cases (k : Nat) (r : BitReader) :
    (k ≤ r.valid ∧ takeBits k r = .done (topBits k r) (skip k r)) ∨
      (r.valid < k ∧ takeBits k r = .raised .invalidCompressedData r) := by
  unfold takeBits
  split <;> simp_all

/-- A refill raises only `invalid_compressed_data`, and exactly when it leaves the cache empty. -/
theorem refill_cases (mem : Memory) (len : Nat) (r : BitReader) :
    ∃ r', r' = refillLoop mem len Config.cacheWidth r ∧
      ((r'.valid = 0 ∧ refill mem len r = .raised .invalidCompressedData r') ∨
        (r'.valid ≠ 0 ∧ refill mem len r = .done () r')) := by
  refine ⟨_, rfl, ?_⟩
  unfold refill refillResult
  split <;> simp_all

/-- `ReadValue` takes the bits from the reader as it is or from the refilled one, or raises
`invalid_compressed_data`. -/
theorem readValue_cases (mem : Memory) (len k : Nat) (r : BitReader) :
    (k = 0 ∧ readValue mem len k r = .done 0 r) ∨
    (k ≠ 0 ∧ ∃ r', (r' = r ∨ refill mem len r = .done () r') ∧ k ≤ r'.valid ∧
      readValue mem len k r = .done (topBits k r') (skip k r')) ∨
    (k ≠ 0 ∧ r.valid < k ∧ ∃ r', readValue mem len k r = .raised .invalidCompressedData r' ∧
      (refill mem len r = .raised .invalidCompressedData r' ∨
        (refill mem len r = .done () r' ∧ r'.valid < k))) := by
  unfold readValue
  by_cases hk : k = 0
  · exact .inl (by simp [hk])
  by_cases hv : r.valid < k
  · simp only [hk, hv, if_true, if_false]
    obtain ⟨r', -, ⟨-, h⟩ | ⟨-, h⟩⟩ := refill_cases mem len r
    · exact .inr (.inr ⟨hk, trivial, r', by simp [h], .inl h⟩)
    · rcases takeBits_cases k r' with ⟨h1, h2⟩ | ⟨h1, h2⟩
      · exact .inr (.inl ⟨hk, r', .inr h, h1, by simp [h, h2]⟩)
      · exact .inr (.inr ⟨hk, trivial, r', by simp [h, h2], .inr ⟨h, h1⟩⟩)
  · simp only [hk, hv, if_false]
    exact .inr (.inl ⟨hk, r, .inl rfl, by omega, by simp [takeBits, hv]⟩)

theorem checkPadding_cases (r : BitReader) :
    (r.cache = 0 ∧ checkPadding r = .done () r) ∨ (r.cache ≠ 0 ∧ checkPadding r = .raised .tooMuchCompressedData r) := by
  unfold checkPadding
  split <;> simp_all

/-- `Finalize` ends in front of a `0xFF` with an all-zero cache, or raises one of the two compressed-data codes. -/
theorem finalize_cases (mem : Memory) (len : Nat) (r : BitReader) :
    (∃ r', finalize mem len r = .done () r' ∧ nextIsFF mem len r' = true ∧ r'.cache = 0) ∨
      ∃ code r', finalize mem len r = .raised code r' ∧
        (code = .tooMuchCompressedData ∨ code = .invalidCompressedData) := by
  unfold finalize
  split
  · rename_i hf
    rcases checkPadding_cases r with ⟨h, h'⟩ | ⟨h, h'⟩
    · exact .inl ⟨r, h', hf, h⟩
    · exact .inr ⟨_, r, h', .inl rfl⟩
  · have hbit := readValue_cases mem len 1 r
    simp only [readBit]
    rcases hbit with ⟨h, -⟩ | ⟨-, r', -, -, h⟩ | ⟨-, -, r', h, -⟩
    · omega
    · simp only [h, Read.andThen_done]
      split
      · rename_i hf
        rcases checkPadding_cases (skip 1 r') with ⟨h1, h2⟩ | ⟨h1, h2⟩
        · exact .inl ⟨_, h2, hf, h1⟩
        · exact .inr ⟨_, _, h2, .inl rfl⟩
      · exact .inr ⟨_, _, rfl, .inl rfl⟩
    · exact .inr ⟨_, r', by simp [h], .inr rfl⟩

end Sys2Proof.Machine
end

