-- ==== Sys2Proof/Laws/State.lean ====
section
/-! SUPPORT. For every named state update, what each field holds afterwards: one lemma per field and update. -/

namespace Sys2Proof.Machine

/-! ## State.setBrd -/

@[simp] theorem setBrd_cfg (s : State) (r : BitReader) :
    (s.setBrd r).cfg = s.cfg := rfl

@[simp] theorem setBrd_phase (s : State) (r : BitReader) :
    (s.setBrd r).phase = s.phase := rfl

@[simp] theorem setBrd_err (s : State) (r : BitReader) :
    (s.setBrd r).err = s.err := rfl

@[simp] theorem setBrd_bytepos (s : State) (r : BitReader) :
    (s.setBrd r).bytepos = s.bytepos := rfl

@[simp] theorem setBrd_lines (s : State) (r : BitReader) :
    (s.setBrd r).lines = s.lines := rfl

@[simp] theorem setBrd_scan (s : State) (r : BitReader) :
    (s.setBrd r).scan = s.scan := rfl

@[simp] theorem setBrd_brd (s : State) (r : BitReader) :
    (s.setBrd r).brd = r := rfl

@[simp] theorem setBrd_ctxr (s : State) (r : BitReader) :
    (s.setBrd r).ctxr = s.ctxr := rfl

@[simp] theorem setBrd_ctxi (s : State) (r : BitReader) :
    (s.setBrd r).ctxi = s.ctxi := rfl

@[simp] theorem setBrd_runIdx (s : State) (r : BitReader) :
    (s.setBrd r).runIdx = s.runIdx := rfl

@[simp] theorem setBrd_lb (s : State) (r : BitReader) :
    (s.setBrd r).lb = s.lb := rfl

@[simp] theorem setBrd_fsm (s : State) (r : BitReader) :
    (s.setBrd r).fsm = s.fsm := rfl

@[simp] theorem setBrd_comp (s : State) (r : BitReader) :
    (s.setBrd r).comp = s.comp := rfl

@[simp] theorem setBrd_y (s : State) (r : BitReader) :
    (s.setBrd r).y = s.y := rfl

@[simp] theorem setBrd_x (s : State) (r : BitReader) :
    (s.setBrd r).x = s.x := rfl

@[simp] theorem setBrd_runCnt (s : State) (r : BitReader) :
    (s.setBrd r).runCnt = s.runCnt := rfl

@[simp] theorem setBrd_input (s : State) (r : BitReader) :
    (s.setBrd r).input = s.input := rfl

@[simp] theorem setBrd_host (s : State) (r : BitReader) :
    (s.setBrd r).host = s.host := rfl

@[simp] theorem setBrd_sinkReplies (s : State) (r : BitReader) :
    (s.setBrd r).sinkReplies = s.sinkReplies := rfl

@[simp] theorem setBrd_delivered (s : State) (r : BitReader) :
    (s.setBrd r).delivered = s.delivered := rfl

@[simp] theorem setBrd_readData (s : State) (r : BitReader) :
    (s.setBrd r).readData = s.readData := rfl

/-! ## State.setFsm -/

@[simp] theorem setFsm_cfg (s : State) (f : Fsm) :
    (s.setFsm f).cfg = s.cfg := rfl

@[simp] theorem setFsm_phase (s : State) (f : Fsm) :
    (s.setFsm f).phase = s.phase := rfl

@[simp] theorem setFsm_err (s : State) (f : Fsm) :
    (s.setFsm f).err = s.err := rfl

@[simp] theorem setFsm_bytepos (s : State) (f : Fsm) :
    (s.setFsm f).bytepos = s.bytepos := rfl

@[simp] theorem setFsm_lines (s : State) (f : Fsm) :
    (s.setFsm f).lines = s.lines := rfl

@[simp] theorem setFsm_scan (s : State) (f : Fsm) :
    (s.setFsm f).scan = s.scan := rfl

@[simp] theorem setFsm_brd (s : State) (f : Fsm) :
    (s.setFsm f).brd = s.brd := rfl

@[simp] theorem setFsm_ctxr (s : State) (f : Fsm) :
    (s.setFsm f).ctxr = s.ctxr := rfl

@[simp] theorem setFsm_ctxi (s : State) (f : Fsm) :
    (s.setFsm f).ctxi = s.ctxi := rfl

@[simp] theorem setFsm_runIdx (s : State) (f : Fsm) :
    (s.setFsm f).runIdx = s.runIdx := rfl

@[simp] theorem setFsm_lb (s : State) (f : Fsm) :
    (s.setFsm f).lb = s.lb := rfl

@[simp] theorem setFsm_fsm (s : State) (f : Fsm) :
    (s.setFsm f).fsm = f := rfl

@[simp] theorem setFsm_comp (s : State) (f : Fsm) :
    (s.setFsm f).comp = s.comp := rfl

@[simp] theorem setFsm_y (s : State) (f : Fsm) :
    (s.setFsm f).y = s.y := rfl

@[simp] theorem setFsm_x (s : State) (f : Fsm) :
    (s.setFsm f).x = s.x := rfl

@[simp] theorem setFsm_runCnt (s : State) (f : Fsm) :
    (s.setFsm f).runCnt = s.runCnt := rfl

@[simp] theorem setFsm_input (s : State) (f : Fsm) :
    (s.setFsm f).input = s.input := rfl

@[simp] theorem setFsm_host (s : State) (f : Fsm) :
    (s.setFsm f).host = s.host := rfl

@[simp] theorem setFsm_sinkReplies (s : State) (f : Fsm) :
    (s.setFsm f).sinkReplies = s.sinkReplies := rfl

@[simp] theorem setFsm_delivered (s : State) (f : Fsm) :
    (s.setFsm f).delivered = s.delivered := rfl

@[simp] theorem setFsm_readData (s : State) (f : Fsm) :
    (s.setFsm f).readData = s.readData := rfl

/-! ## State.setCtxr -/

@[simp] theorem setCtxr_cfg (s : State) (q : Fin Config.nRegCtx) (c : RegCtx) :
    (s.setCtxr q c).cfg = s.cfg := rfl

@[simp] theorem setCtxr_phase (s : State) (q : Fin Config.nRegCtx) (c : RegCtx) :
    (s.setCtxr q c).phase = s.phase := rfl

@[simp] theorem setCtxr_err (s : State) (q : Fin Config.nRegCtx) (c : RegCtx) :
    (s.setCtxr q c).err = s.err := rfl

@[simp] theorem setCtxr_bytepos (s : State) (q : Fin Config.nRegCtx) (c : RegCtx) :
    (s.setCtxr q c).bytepos = s.bytepos := rfl

@[simp] theorem setCtxr_lines (s : State) (q : Fin Config.nRegCtx) (c : RegCtx) :
    (s.setCtxr q c).lines = s.lines := rfl

@[simp] theorem setCtxr_scan (s : State) (q : Fin Config.nRegCtx) (c : RegCtx) :
    (s.setCtxr q c).scan = s.scan := rfl

@[simp] theorem setCtxr_brd (s : State) (q : Fin Config.nRegCtx) (c : RegCtx) :
    (s.setCtxr q c).brd = s.brd := rfl

@[simp] theorem setCtxr_ctxr (s : State) (q : Fin Config.nRegCtx) (c : RegCtx) :
    (s.setCtxr q c).ctxr = s.ctxr.set q.val c q.isLt := rfl

@[simp] theorem setCtxr_ctxi (s : State) (q : Fin Config.nRegCtx) (c : RegCtx) :
    (s.setCtxr q c).ctxi = s.ctxi := rfl

@[simp] theorem setCtxr_runIdx (s : State) (q : Fin Config.nRegCtx) (c : RegCtx) :
    (s.setCtxr q c).runIdx = s.runIdx := rfl

@[simp] theorem setCtxr_lb (s : State) (q : Fin Config.nRegCtx) (c : RegCtx) :
    (s.setCtxr q c).lb = s.lb := rfl

@[simp] theorem setCtxr_fsm (s : State) (q : Fin Config.nRegCtx) (c : RegCtx) :
    (s.setCtxr q c).fsm = s.fsm := rfl

@[simp] theorem setCtxr_comp (s : State) (q : Fin Config.nRegCtx) (c : RegCtx) :
    (s.setCtxr q c).comp = s.comp := rfl

@[simp] theorem setCtxr_y (s : State) (q : Fin Config.nRegCtx) (c : RegCtx) :
    (s.setCtxr q c).y = s.y := rfl

@[simp] theorem setCtxr_x (s : State) (q : Fin Config.nRegCtx) (c : RegCtx) :
    (s.setCtxr q c).x = s.x := rfl

@[simp] theorem setCtxr_runCnt (s : State) (q : Fin Config.nRegCtx) (c : RegCtx) :
    (s.setCtxr q c).runCnt = s.runCnt := rfl

@[simp] theorem setCtxr_input (s : State) (q : Fin Config.nRegCtx) (c : RegCtx) :
    (s.setCtxr q c).input = s.input := rfl

@[simp] theorem setCtxr_host (s : State) (q : Fin Config.nRegCtx) (c : RegCtx) :
    (s.setCtxr q c).host = s.host := rfl

@[simp] theorem setCtxr_sinkReplies (s : State) (q : Fin Config.nRegCtx) (c : RegCtx) :
    (s.setCtxr q c).sinkReplies = s.sinkReplies := rfl

@[simp] theorem setCtxr_delivered (s : State) (q : Fin Config.nRegCtx) (c : RegCtx) :
    (s.setCtxr q c).delivered = s.delivered := rfl

@[simp] theorem setCtxr_readData (s : State) (q : Fin Config.nRegCtx) (c : RegCtx) :
    (s.setCtxr q c).readData = s.readData := rfl

/-! ## State.setCtxi -/

@[simp] theorem setCtxi_cfg (s : State) (t : Fin 2) (c : RiCtx) :
    (s.setCtxi t c).cfg = s.cfg := rfl

@[simp] theorem setCtxi_phase (s : State) (t : Fin 2) (c : RiCtx) :
    (s.setCtxi t c).phase = s.phase := rfl

@[simp] theorem setCtxi_err (s : State) (t : Fin 2) (c : RiCtx) :
    (s.setCtxi t c).err = s.err := rfl

@[simp] theorem setCtxi_bytepos (s : State) (t : Fin 2) (c : RiCtx) :
    (s.setCtxi t c).bytepos = s.bytepos := rfl

@[simp] theorem setCtxi_lines (s : State) (t : Fin 2) (c : RiCtx) :
    (s.setCtxi t c).lines = s.lines := rfl

@[simp] theorem setCtxi_scan (s : State) (t : Fin 2) (c : RiCtx) :
    (s.setCtxi t c).scan = s.scan := rfl

@[simp] theorem setCtxi_brd (s : State) (t : Fin 2) (c : RiCtx) :
    (s.setCtxi t c).brd = s.brd := rfl

@[simp] theorem setCtxi_ctxr (s : State) (t : Fin 2) (c : RiCtx) :
    (s.setCtxi t c).ctxr = s.ctxr := rfl

@[simp] theorem setCtxi_ctxi (s : State) (t : Fin 2) (c : RiCtx) :
    (s.setCtxi t c).ctxi = s.ctxi.set t.val c t.isLt := rfl

@[simp] theorem setCtxi_runIdx (s : State) (t : Fin 2) (c : RiCtx) :
    (s.setCtxi t c).runIdx = s.runIdx := rfl

@[simp] theorem setCtxi_lb (s : State) (t : Fin 2) (c : RiCtx) :
    (s.setCtxi t c).lb = s.lb := rfl

@[simp] theorem setCtxi_fsm (s : State) (t : Fin 2) (c : RiCtx) :
    (s.setCtxi t c).fsm = s.fsm := rfl

@[simp] theorem setCtxi_comp (s : State) (t : Fin 2) (c : RiCtx) :
    (s.setCtxi t c).comp = s.comp := rfl

@[simp] theorem setCtxi_y (s : State) (t : Fin 2) (c : RiCtx) :
    (s.setCtxi t c).y = s.y := rfl

@[simp] theorem setCtxi_x (s : State) (t : Fin 2) (c : RiCtx) :
    (s.setCtxi t c).x = s.x := rfl

@[simp] theorem setCtxi_runCnt (s : State) (t : Fin 2) (c : RiCtx) :
    (s.setCtxi t c).runCnt = s.runCnt := rfl

@[simp] theorem setCtxi_input (s : State) (t : Fin 2) (c : RiCtx) :
    (s.setCtxi t c).input = s.input := rfl

@[simp] theorem setCtxi_host (s : State) (t : Fin 2) (c : RiCtx) :
    (s.setCtxi t c).host = s.host := rfl

@[simp] theorem setCtxi_sinkReplies (s : State) (t : Fin 2) (c : RiCtx) :
    (s.setCtxi t c).sinkReplies = s.sinkReplies := rfl

@[simp] theorem setCtxi_delivered (s : State) (t : Fin 2) (c : RiCtx) :
    (s.setCtxi t c).delivered = s.delivered := rfl

@[simp] theorem setCtxi_readData (s : State) (t : Fin 2) (c : RiCtx) :
    (s.setCtxi t c).readData = s.readData := rfl

/-! ## State.setRunIdx -/

@[simp] theorem setRunIdx_cfg (s : State) (i : Fin 32) :
    (s.setRunIdx i).cfg = s.cfg := rfl

@[simp] theorem setRunIdx_phase (s : State) (i : Fin 32) :
    (s.setRunIdx i).phase = s.phase := rfl

@[simp] theorem setRunIdx_err (s : State) (i : Fin 32) :
    (s.setRunIdx i).err = s.err := rfl

@[simp] theorem setRunIdx_bytepos (s : State) (i : Fin 32) :
    (s.setRunIdx i).bytepos = s.bytepos := rfl

@[simp] theorem setRunIdx_lines (s : State) (i : Fin 32) :
    (s.setRunIdx i).lines = s.lines := rfl

@[simp] theorem setRunIdx_scan (s : State) (i : Fin 32) :
    (s.setRunIdx i).scan = s.scan := rfl

@[simp] theorem setRunIdx_brd (s : State) (i : Fin 32) :
    (s.setRunIdx i).brd = s.brd := rfl

@[simp] theorem setRunIdx_ctxr (s : State) (i : Fin 32) :
    (s.setRunIdx i).ctxr = s.ctxr := rfl

@[simp] theorem setRunIdx_ctxi (s : State) (i : Fin 32) :
    (s.setRunIdx i).ctxi = s.ctxi := rfl

@[simp] theorem setRunIdx_runIdx (s : State) (i : Fin 32) :
    (s.setRunIdx i).runIdx = s.runIdx.set s.comp i := rfl

@[simp] theorem setRunIdx_lb (s : State) (i : Fin 32) :
    (s.setRunIdx i).lb = s.lb := rfl

@[simp] theorem setRunIdx_fsm (s : State) (i : Fin 32) :
    (s.setRunIdx i).fsm = s.fsm := rfl

@[simp] theorem setRunIdx_comp (s : State) (i : Fin 32) :
    (s.setRunIdx i).comp = s.comp := rfl

@[simp] theorem setRunIdx_y (s : State) (i : Fin 32) :
    (s.setRunIdx i).y = s.y := rfl

@[simp] theorem setRunIdx_x (s : State) (i : Fin 32) :
    (s.setRunIdx i).x = s.x := rfl

@[simp] theorem setRunIdx_runCnt (s : State) (i : Fin 32) :
    (s.setRunIdx i).runCnt = s.runCnt := rfl

@[simp] theorem setRunIdx_input (s : State) (i : Fin 32) :
    (s.setRunIdx i).input = s.input := rfl

@[simp] theorem setRunIdx_host (s : State) (i : Fin 32) :
    (s.setRunIdx i).host = s.host := rfl

@[simp] theorem setRunIdx_sinkReplies (s : State) (i : Fin 32) :
    (s.setRunIdx i).sinkReplies = s.sinkReplies := rfl

@[simp] theorem setRunIdx_delivered (s : State) (i : Fin 32) :
    (s.setRunIdx i).delivered = s.delivered := rfl

@[simp] theorem setRunIdx_readData (s : State) (i : Fin 32) :
    (s.setRunIdx i).readData = s.readData := rfl

/-! ## State.writeSample -/

@[simp] theorem writeSample_cfg (s : State) (v : Nat) :
    (s.writeSample v).cfg = s.cfg := rfl

@[simp] theorem writeSample_phase (s : State) (v : Nat) :
    (s.writeSample v).phase = s.phase := rfl

@[simp] theorem writeSample_err (s : State) (v : Nat) :
    (s.writeSample v).err = s.err := rfl

@[simp] theorem writeSample_bytepos (s : State) (v : Nat) :
    (s.writeSample v).bytepos = s.bytepos := rfl

@[simp] theorem writeSample_lines (s : State) (v : Nat) :
    (s.writeSample v).lines = s.lines := rfl

@[simp] theorem writeSample_scan (s : State) (v : Nat) :
    (s.writeSample v).scan = s.scan := rfl

@[simp] theorem writeSample_brd (s : State) (v : Nat) :
    (s.writeSample v).brd = s.brd := rfl

@[simp] theorem writeSample_ctxr (s : State) (v : Nat) :
    (s.writeSample v).ctxr = s.ctxr := rfl

@[simp] theorem writeSample_ctxi (s : State) (v : Nat) :
    (s.writeSample v).ctxi = s.ctxi := rfl

@[simp] theorem writeSample_runIdx (s : State) (v : Nat) :
    (s.writeSample v).runIdx = s.runIdx := rfl

@[simp] theorem writeSample_lb (s : State) (v : Nat) :
    (s.writeSample v).lb = s.lb.set s.comp (s.line.setCur (s.line.cur.set (s.x + 1) v)) := rfl

@[simp] theorem writeSample_fsm (s : State) (v : Nat) :
    (s.writeSample v).fsm = s.fsm := rfl

@[simp] theorem writeSample_comp (s : State) (v : Nat) :
    (s.writeSample v).comp = s.comp := rfl

@[simp] theorem writeSample_y (s : State) (v : Nat) :
    (s.writeSample v).y = s.y := rfl

@[simp] theorem writeSample_x (s : State) (v : Nat) :
    (s.writeSample v).x = s.x + 1 := rfl

@[simp] theorem writeSample_runCnt (s : State) (v : Nat) :
    (s.writeSample v).runCnt = s.runCnt := rfl

@[simp] theorem writeSample_input (s : State) (v : Nat) :
    (s.writeSample v).input = s.input := rfl

@[simp] theorem writeSample_host (s : State) (v : Nat) :
    (s.writeSample v).host = s.host := rfl

@[simp] theorem writeSample_sinkReplies (s : State) (v : Nat) :
    (s.writeSample v).sinkReplies = s.sinkReplies := rfl

@[simp] theorem writeSample_delivered (s : State) (v : Nat) :
    (s.writeSample v).delivered = s.delivered := rfl

@[simp] theorem writeSample_readData (s : State) (v : Nat) :
    (s.writeSample v).readData = s.readData := rfl

/-! ## State.fillRun -/

@[simp] theorem fillRun_cfg (s : State) (n v : Nat) :
    (s.fillRun n v).cfg = s.cfg := rfl

@[simp] theorem fillRun_phase (s : State) (n v : Nat) :
    (s.fillRun n v).phase = s.phase := rfl

@[simp] theorem fillRun_err (s : State) (n v : Nat) :
    (s.fillRun n v).err = s.err := rfl

@[simp] theorem fillRun_bytepos (s : State) (n v : Nat) :
    (s.fillRun n v).bytepos = s.bytepos := rfl

@[simp] theorem fillRun_lines (s : State) (n v : Nat) :
    (s.fillRun n v).lines = s.lines := rfl

@[simp] theorem fillRun_scan (s : State) (n v : Nat) :
    (s.fillRun n v).scan = s.scan := rfl

@[simp] theorem fillRun_brd (s : State) (n v : Nat) :
    (s.fillRun n v).brd = s.brd := rfl

@[simp] theorem fillRun_ctxr (s : State) (n v : Nat) :
    (s.fillRun n v).ctxr = s.ctxr := rfl

@[simp] theorem fillRun_ctxi (s : State) (n v : Nat) :
    (s.fillRun n v).ctxi = s.ctxi := rfl

@[simp] theorem fillRun_runIdx (s : State) (n v : Nat) :
    (s.fillRun n v).runIdx = s.runIdx := rfl

@[simp] theorem fillRun_lb (s : State) (n v : Nat) :
    (s.fillRun n v).lb = s.lb.set s.comp (s.line.setCur (fillRow s.line.cur (s.x + 1) n v)) := rfl

@[simp] theorem fillRun_fsm (s : State) (n v : Nat) :
    (s.fillRun n v).fsm = s.fsm := rfl

@[simp] theorem fillRun_comp (s : State) (n v : Nat) :
    (s.fillRun n v).comp = s.comp := rfl

@[simp] theorem fillRun_y (s : State) (n v : Nat) :
    (s.fillRun n v).y = s.y := rfl

@[simp] theorem fillRun_x (s : State) (n v : Nat) :
    (s.fillRun n v).x = s.x + n := rfl

@[simp] theorem fillRun_runCnt (s : State) (n v : Nat) :
    (s.fillRun n v).runCnt = s.runCnt := rfl

@[simp] theorem fillRun_input (s : State) (n v : Nat) :
    (s.fillRun n v).input = s.input := rfl

@[simp] theorem fillRun_host (s : State) (n v : Nat) :
    (s.fillRun n v).host = s.host := rfl

@[simp] theorem fillRun_sinkReplies (s : State) (n v : Nat) :
    (s.fillRun n v).sinkReplies = s.sinkReplies := rfl

@[simp] theorem fillRun_delivered (s : State) (n v : Nat) :
    (s.fillRun n v).delivered = s.delivered := rfl

@[simp] theorem fillRun_readData (s : State) (n v : Nat) :
    (s.fillRun n v).readData = s.readData := rfl

/-! ## State.setRunCnt -/

@[simp] theorem setRunCnt_cfg (s : State) (n : Nat) :
    (s.setRunCnt n).cfg = s.cfg := rfl

@[simp] theorem setRunCnt_phase (s : State) (n : Nat) :
    (s.setRunCnt n).phase = s.phase := rfl

@[simp] theorem setRunCnt_err (s : State) (n : Nat) :
    (s.setRunCnt n).err = s.err := rfl

@[simp] theorem setRunCnt_bytepos (s : State) (n : Nat) :
    (s.setRunCnt n).bytepos = s.bytepos := rfl

@[simp] theorem setRunCnt_lines (s : State) (n : Nat) :
    (s.setRunCnt n).lines = s.lines := rfl

@[simp] theorem setRunCnt_scan (s : State) (n : Nat) :
    (s.setRunCnt n).scan = s.scan := rfl

@[simp] theorem setRunCnt_brd (s : State) (n : Nat) :
    (s.setRunCnt n).brd = s.brd := rfl

@[simp] theorem setRunCnt_ctxr (s : State) (n : Nat) :
    (s.setRunCnt n).ctxr = s.ctxr := rfl

@[simp] theorem setRunCnt_ctxi (s : State) (n : Nat) :
    (s.setRunCnt n).ctxi = s.ctxi := rfl

@[simp] theorem setRunCnt_runIdx (s : State) (n : Nat) :
    (s.setRunCnt n).runIdx = s.runIdx := rfl

@[simp] theorem setRunCnt_lb (s : State) (n : Nat) :
    (s.setRunCnt n).lb = s.lb := rfl

@[simp] theorem setRunCnt_fsm (s : State) (n : Nat) :
    (s.setRunCnt n).fsm = s.fsm := rfl

@[simp] theorem setRunCnt_comp (s : State) (n : Nat) :
    (s.setRunCnt n).comp = s.comp := rfl

@[simp] theorem setRunCnt_y (s : State) (n : Nat) :
    (s.setRunCnt n).y = s.y := rfl

@[simp] theorem setRunCnt_x (s : State) (n : Nat) :
    (s.setRunCnt n).x = s.x := rfl

@[simp] theorem setRunCnt_runCnt (s : State) (n : Nat) :
    (s.setRunCnt n).runCnt = n := rfl

@[simp] theorem setRunCnt_input (s : State) (n : Nat) :
    (s.setRunCnt n).input = s.input := rfl

@[simp] theorem setRunCnt_host (s : State) (n : Nat) :
    (s.setRunCnt n).host = s.host := rfl

@[simp] theorem setRunCnt_sinkReplies (s : State) (n : Nat) :
    (s.setRunCnt n).sinkReplies = s.sinkReplies := rfl

@[simp] theorem setRunCnt_delivered (s : State) (n : Nat) :
    (s.setRunCnt n).delivered = s.delivered := rfl

@[simp] theorem setRunCnt_readData (s : State) (n : Nat) :
    (s.setRunCnt n).readData = s.readData := rfl

/-! ## State.popHost -/

@[simp] theorem popHost_cfg (s : State) :
    (s.popHost).cfg = s.cfg := rfl

@[simp] theorem popHost_phase (s : State) :
    (s.popHost).phase = s.phase := rfl

@[simp] theorem popHost_err (s : State) :
    (s.popHost).err = s.err := rfl

@[simp] theorem popHost_bytepos (s : State) :
    (s.popHost).bytepos = s.bytepos := rfl

@[simp] theorem popHost_lines (s : State) :
    (s.popHost).lines = s.lines := rfl

@[simp] theorem popHost_scan (s : State) :
    (s.popHost).scan = s.scan := rfl

@[simp] theorem popHost_brd (s : State) :
    (s.popHost).brd = s.brd := rfl

@[simp] theorem popHost_ctxr (s : State) :
    (s.popHost).ctxr = s.ctxr := rfl

@[simp] theorem popHost_ctxi (s : State) :
    (s.popHost).ctxi = s.ctxi := rfl

@[simp] theorem popHost_runIdx (s : State) :
    (s.popHost).runIdx = s.runIdx := rfl

@[simp] theorem popHost_lb (s : State) :
    (s.popHost).lb = s.lb := rfl

@[simp] theorem popHost_fsm (s : State) :
    (s.popHost).fsm = s.fsm := rfl

@[simp] theorem popHost_comp (s : State) :
    (s.popHost).comp = s.comp := rfl

@[simp] theorem popHost_y (s : State) :
    (s.popHost).y = s.y := rfl

@[simp] theorem popHost_x (s : State) :
    (s.popHost).x = s.x := rfl

@[simp] theorem popHost_runCnt (s : State) :
    (s.popHost).runCnt = s.runCnt := rfl

@[simp] theorem popHost_input (s : State) :
    (s.popHost).input = s.input := rfl

@[simp] theorem popHost_host (s : State) :
    (s.popHost).host = s.host.tail := rfl

@[simp] theorem popHost_sinkReplies (s : State) :
    (s.popHost).sinkReplies = s.sinkReplies := rfl

@[simp] theorem popHost_delivered (s : State) :
    (s.popHost).delivered = s.delivered := rfl

@[simp] theorem popHost_readData (s : State) :
    (s.popHost).readData = s.readData := rfl

/-! ## raiseError -/

@[simp] theorem raiseError_cfg (code : ErrCode) (s : State) :
    (raiseError code s).cfg = s.cfg := rfl

@[simp] theorem raiseError_phase (code : ErrCode) (s : State) :
    (raiseError code s).phase = .error := rfl

@[simp] theorem raiseError_err (code : ErrCode) (s : State) :
    (raiseError code s).err = code := rfl

@[simp] theorem raiseError_bytepos (code : ErrCode) (s : State) :
    (raiseError code s).bytepos = s.bytepos := rfl

@[simp] theorem raiseError_lines (code : ErrCode) (s : State) :
    (raiseError code s).lines = s.lines := rfl

@[simp] theorem raiseError_scan (code : ErrCode) (s : State) :
    (raiseError code s).scan = s.scan := rfl

@[simp] theorem raiseError_brd (code : ErrCode) (s : State) :
    (raiseError code s).brd = s.brd := rfl

@[simp] theorem raiseError_ctxr (code : ErrCode) (s : State) :
    (raiseError code s).ctxr = s.ctxr := rfl

@[simp] theorem raiseError_ctxi (code : ErrCode) (s : State) :
    (raiseError code s).ctxi = s.ctxi := rfl

@[simp] theorem raiseError_runIdx (code : ErrCode) (s : State) :
    (raiseError code s).runIdx = s.runIdx := rfl

@[simp] theorem raiseError_lb (code : ErrCode) (s : State) :
    (raiseError code s).lb = s.lb := rfl

@[simp] theorem raiseError_fsm (code : ErrCode) (s : State) :
    (raiseError code s).fsm = .error := rfl

@[simp] theorem raiseError_comp (code : ErrCode) (s : State) :
    (raiseError code s).comp = s.comp := rfl

@[simp] theorem raiseError_y (code : ErrCode) (s : State) :
    (raiseError code s).y = s.y := rfl

@[simp] theorem raiseError_x (code : ErrCode) (s : State) :
    (raiseError code s).x = s.x := rfl

@[simp] theorem raiseError_runCnt (code : ErrCode) (s : State) :
    (raiseError code s).runCnt = s.runCnt := rfl

@[simp] theorem raiseError_input (code : ErrCode) (s : State) :
    (raiseError code s).input = s.input := rfl

@[simp] theorem raiseError_host (code : ErrCode) (s : State) :
    (raiseError code s).host = s.host := rfl

@[simp] theorem raiseError_sinkReplies (code : ErrCode) (s : State) :
    (raiseError code s).sinkReplies = s.sinkReplies := rfl

@[simp] theorem raiseError_delivered (code : ErrCode) (s : State) :
    (raiseError code s).delivered = s.delivered := rfl

@[simp] theorem raiseError_readData (code : ErrCode) (s : State) :
    (raiseError code s).readData = s.readData := rfl

/-! ## callSink -/

@[simp] theorem callSink_cfg (s : State) :
    (callSink s).cfg = s.cfg := rfl

@[simp] theorem callSink_phase (s : State) :
    (callSink s).phase = s.phase := rfl

@[simp] theorem callSink_err (s : State) :
    (callSink s).err = s.err := rfl

@[simp] theorem callSink_bytepos (s : State) :
    (callSink s).bytepos = s.bytepos := rfl

@[simp] theorem callSink_lines (s : State) :
    (callSink s).lines = s.lines := rfl

@[simp] theorem callSink_scan (s : State) :
    (callSink s).scan = s.scan := rfl

@[simp] theorem callSink_brd (s : State) :
    (callSink s).brd = s.brd := rfl

@[simp] theorem callSink_ctxr (s : State) :
    (callSink s).ctxr = s.ctxr := rfl

@[simp] theorem callSink_ctxi (s : State) :
    (callSink s).ctxi = s.ctxi := rfl

@[simp] theorem callSink_runIdx (s : State) :
    (callSink s).runIdx = s.runIdx := rfl

@[simp] theorem callSink_lb (s : State) :
    (callSink s).lb = s.lb := rfl

@[simp] theorem callSink_fsm (s : State) :
    (callSink s).fsm = s.fsm := rfl

@[simp] theorem callSink_comp (s : State) :
    (callSink s).comp = s.comp := rfl

@[simp] theorem callSink_y (s : State) :
    (callSink s).y = s.y := rfl

@[simp] theorem callSink_x (s : State) :
    (callSink s).x = s.x := rfl

@[simp] theorem callSink_runCnt (s : State) :
    (callSink s).runCnt = s.runCnt := rfl

@[simp] theorem callSink_input (s : State) :
    (callSink s).input = s.input := rfl

@[simp] theorem callSink_host (s : State) :
    (callSink s).host = s.host := rfl

@[simp] theorem callSink_sinkReplies (s : State) :
    (callSink s).sinkReplies = s.sinkReplies.tail := rfl

@[simp] theorem callSink_delivered (s : State) :
    (callSink s).delivered = s.delivered ++
      [⟨s.y, deliveredRow s, s.scan.width, s.scan.width, nextReply s.sinkReplies⟩] := rfl

@[simp] theorem callSink_readData (s : State) :
    (callSink s).readData = s.readData := rfl

/-! ## latchScan -/

@[simp] theorem latchScan_cfg (s : State) :
    (latchScan s).cfg = s.cfg := rfl

@[simp] theorem latchScan_phase (s : State) :
    (latchScan s).phase = s.phase := rfl

@[simp] theorem latchScan_err (s : State) :
    (latchScan s).err = .none := rfl

@[simp] theorem latchScan_bytepos (s : State) :
    (latchScan s).bytepos = s.bytepos := rfl

@[simp] theorem latchScan_lines (s : State) :
    (latchScan s).lines = 0 := rfl

@[simp] theorem latchScan_scan (s : State) :
    (latchScan s).scan = latch s.cfg := rfl

@[simp] theorem latchScan_brd (s : State) :
    (latchScan s).brd = s.brd := rfl

@[simp] theorem latchScan_ctxr (s : State) :
    (latchScan s).ctxr = s.ctxr := rfl

@[simp] theorem latchScan_ctxi (s : State) :
    (latchScan s).ctxi = s.ctxi := rfl

@[simp] theorem latchScan_runIdx (s : State) :
    (latchScan s).runIdx = s.runIdx := rfl

@[simp] theorem latchScan_lb (s : State) :
    (latchScan s).lb = s.lb := rfl

@[simp] theorem latchScan_fsm (s : State) :
    (latchScan s).fsm = s.fsm := rfl

@[simp] theorem latchScan_comp (s : State) :
    (latchScan s).comp = s.comp := rfl

@[simp] theorem latchScan_y (s : State) :
    (latchScan s).y = s.y := rfl

@[simp] theorem latchScan_x (s : State) :
    (latchScan s).x = s.x := rfl

@[simp] theorem latchScan_runCnt (s : State) :
    (latchScan s).runCnt = s.runCnt := rfl

@[simp] theorem latchScan_input (s : State) :
    (latchScan s).input = s.input := rfl

@[simp] theorem latchScan_host (s : State) :
    (latchScan s).host = s.host := rfl

@[simp] theorem latchScan_sinkReplies (s : State) :
    (latchScan s).sinkReplies = s.sinkReplies := rfl

@[simp] theorem latchScan_delivered (s : State) :
    (latchScan s).delivered = s.delivered := rfl

@[simp] theorem latchScan_readData (s : State) :
    (latchScan s).readData = s.readData := rfl

end Sys2Proof.Machine
end

