-- ==== Sys2Proof/Laws/Meanings.lean ====
section
/-! SUPPORT. What a meaning, a transition and a step can do, each said once as the list of its outcomes, so that a
proof about all steps splits on these and never unfolds the machine. -/

namespace Sys2Proof.Machine

/-! ## The meanings -/

/-- A regular sample is written with its error in bounds, or the scan ends (43_regular_mode.md R265, R266). -/
theorem regularStep_cases (merr : Nat) (s : State) :
    (∃ e, e = regularError s.scan.near s.regularK s.regularCtx merr ∧ e.natAbs ≤ Config.errLimit ∧
        regularSumsFit s.scan.near s.regularCtx e = true ∧ regularStep merr s = regularWrite e s) ∨
      regularStep merr s = raiseError .invalidCompressedData s := by
  by_cases h1 : Config.errLimit < (regularError s.scan.near s.regularK s.regularCtx merr).natAbs
  · exact .inr (by simp only [regularStep, h1, if_true])
  · by_cases h2 : regularSumsFit s.scan.near s.regularCtx (regularError s.scan.near s.regularK s.regularCtx merr) = true
    · exact .inl ⟨_, rfl, Nat.not_lt.1 h1, h2, by simp only [regularStep, h1, h2, if_true, if_false]⟩
    · exact .inr (by simp [regularStep, h1, h2])

/-- An interruption sample is written with its error in bounds, or the scan ends (44_run_mode.md R315, R316). -/
theorem riStep_cases (em : Nat) (s : State) :
    (∃ e, e = riError s.riK s.riType s.riCtx em ∧ e.natAbs ≤ Config.errLimit ∧
        riSum s.riType s.riCtx em < Config.accLimit ∧ riStep em s = riWrite em e s) ∨
      riStep em s = raiseError .invalidCompressedData s := by
  by_cases h1 : Config.errLimit < (riError s.riK s.riType s.riCtx em).natAbs
  · exact .inr (by simp only [riStep, h1, if_true])
  · by_cases h2 : riSum s.riType s.riCtx em < Config.accLimit
    · exact .inl ⟨_, rfl, Nat.not_lt.1 h1, h2, by simp only [riStep, h1, h2, if_true, if_false]⟩
    · exact .inr (by simp only [riStep, h1, h2, if_false])

/-- A 1 bit ends the run at the end of the line, or only counts (44_run_mode.md R301, R302). -/
theorem execRun1_cases (s : State) :
    (s.runCnt + s.run1Count = s.remaining ∧
        execRun1 s = .next ((endRun s.remaining (s.setRunIdx s.runIdxAfter1)).setFsm .classify)) ∨
      (s.runCnt + s.run1Count ≠ s.remaining ∧
        execRun1 s = .next ((s.setRunIdx s.runIdxAfter1).setRunCnt (s.runCnt + s.run1Count))) := by
  unfold execRun1
  by_cases h : s.runCnt + s.run1Count = s.remaining <;> simp [h]

/-- A run stop overruns the line and raises, leaves room for the interruption sample, or ends the line
(44_run_mode.md R305, R306, R319). -/
theorem execRun0_cases (t : Nat) (s : State) :
    (s.remaining < s.runCnt + t ∧ execRun0 t s = .next (raiseError .invalidCompressedData s)) ∨
    (s.runCnt + t ≤ s.remaining ∧ s.x + (s.runCnt + t) < s.scan.width ∧
      execRun0 t s = .next ((endRun (s.runCnt + t) s).setFsm .runInterrupt)) ∨
    (s.runCnt + t ≤ s.remaining ∧ s.scan.width ≤ s.x + (s.runCnt + t) ∧
      execRun0 t s =
        .next (((endRun (s.runCnt + t) s).setRunIdx (retreatRunIdx (s.runIdx.get s.comp))).setFsm .classify)) := by
  unfold execRun0
  split_ifs with h1 h2
  · exact .inl ⟨h1, rfl⟩
  · exact .inr (.inl ⟨by omega, h2, rfl⟩)
  · exact .inr (.inr ⟨by omega, by omega, rfl⟩)

/-- The padding check finishes the scan or raises one of the two compressed-data codes (40_bitreader.md R163). -/
theorem execPad_cases (n : Nat) (s : State) :
    (∃ r, finalize s.input s.scan.len s.brd = .done () r ∧ execPad n s = .next (finishScan (s.setBrd r))) ∨
      ∃ code r, finalize s.input s.scan.len s.brd = .raised code r ∧
        (code = .tooMuchCompressedData ∨ code = .invalidCompressedData) ∧
        execPad n s = .next (raiseError code (s.setBrd r)) := by
  rcases finalize_cases s.input s.scan.len s.brd with ⟨r, h, -⟩ | ⟨code, r, h, hc⟩
  · exact .inl ⟨r, h, by simp [execPad, h]⟩
  · exact .inr ⟨code, r, h, hc, by simp [execPad, h]⟩

/-- START has no effect, starts a scan or refuses it (10_state.md R36, R37). -/
theorem execCtrlStart_cases (s : State) :
    (s.phase = .busy ∧ execCtrlStart s = .next s) ∨
    (s.phase ≠ .busy ∧ (latch s.cfg).legal = true ∧ execCtrlStart s = .next (initScan (latchScan s))) ∨
    (s.phase ≠ .busy ∧ (latch s.cfg).legal = false ∧
      execCtrlStart s = .next (raiseError .parameterValueNotSupported (latchScan s))) := by
  unfold execCtrlStart
  split_ifs with h1 h2
  · exact .inl ⟨h1, rfl⟩
  · exact .inr (.inl ⟨h1, h2, rfl⟩)
  · exact .inr (.inr ⟨h1, by simpa using h2, rfl⟩)

/-- Every instruction completes in every state: an error of the block is a next state (60_exceptions.md R383). -/
theorem exec_next (i : Instr) (s : State) : ∃ t, exec i s = .next t := by
  cases i with
  | plainByte b => exact ⟨_, rfl⟩
  | stuffedPair z => exact ⟨_, rfl⟩
  | mark m => simp only [exec, execMark]; split <;> exact ⟨_, rfl⟩
  | reg q r => exact ⟨_, rfl⟩
  | esc q v => exact ⟨_, rfl⟩
  | run1 => rcases execRun1_cases s with ⟨-, h⟩ | ⟨-, h⟩ <;> exact ⟨_, h⟩
  | run0 t => rcases execRun0_cases t s with ⟨-, h⟩ | ⟨-, -, h⟩ | ⟨-, -, h⟩ <;> exact ⟨_, h⟩
  | ri q r => exact ⟨_, rfl⟩
  | riesc q v => exact ⟨_, rfl⟩
  | pad n => rcases execPad_cases n s with ⟨r, -, h⟩ | ⟨c, r, -, -, h⟩ <;> exact ⟨_, h⟩
  | ctrlStart => rcases execCtrlStart_cases s with ⟨-, h⟩ | ⟨-, -, h⟩ | ⟨-, -, h⟩ <;> exact ⟨_, h⟩

/-! ## Reading a code word -/

/-- A code word read by the Golomb decoder is one of the two forms the state names. -/
theorem readCodeWord_form {mem : Memory} {len k limit qbpp : Nat} {short escape : Nat → Nat → Instr}
    {r r' : BitReader} {i : Instr} (h : readCodeWord mem len k limit qbpp short escape r = .done i r') :
    (∃ q x, i = short q x) ∨ ∃ q v, i = escape q v := by
  unfold readCodeWord at h
  obtain ⟨q, r1, -, h⟩ := Read.andThen_eq_done h
  split at h
  · obtain ⟨v, r2, -, h⟩ := Read.andThen_eq_done h
    injection h with h _
    exact .inr ⟨q, v, h.symm⟩
  · obtain ⟨v, r2, -, h⟩ := Read.andThen_eq_done h
    injection h with h _
    exact .inl ⟨q, v, h.symm⟩

/-- With or without its peek table, REGULAR reads REG or ESC. -/
theorem readRegular_form {mem : Memory} {len k limit qbpp : Nat} {r r' : BitReader} {i : Instr}
    (h : readRegular mem len k limit qbpp r = .done i r') : (∃ q x, i = .reg q x) ∨ ∃ q v, i = .esc q v := by
  unfold readRegular at h
  split at h
  · obtain ⟨v, r1, -, h⟩ := Read.andThen_eq_done h
    split at h
    · injection h with h _
      exact .inl ⟨_, _, h.symm⟩
    · exact readCodeWord_form h
  · exact readCodeWord_form h

/-- RUN_SCAN reads RUN1 or RUN0. -/
theorem readRun_form {mem : Memory} {len j : Nat} {r r' : BitReader} {i : Instr}
    (h : readRun mem len j r = .done i r') : i = .run1 ∨ ∃ t, i = .run0 t := by
  unfold readRun at h
  obtain ⟨b, r1, -, h⟩ := Read.andThen_eq_done h
  split at h
  · injection h with h _
    exact .inl h.symm
  · obtain ⟨t, r2, -, h⟩ := Read.andThen_eq_done h
    injection h with h _
    exact .inr ⟨t, h.symm⟩

/-! ## One code word, one transition, one step -/

/-- A code word is read and run, or the bit reader's error is taken. -/
theorem runCode_cases {c : ParseCtx} {s t : State} (h : runCode exec c s = .next t) :
    (∃ i r, readCode c s = .done i r ∧ exec i (s.setBrd r) = .next t) ∨
      ∃ code r, readCode c s = .raised code r ∧ t = raiseError code (s.setBrd r) := by
  unfold runCode at h
  split at h
  · exact .inl ⟨_, _, ‹_›, h⟩
  · injection h with h
    exact .inr ⟨_, _, ‹_›, h.symm⟩

/-- What every run code word keeps, the run loop keeps. -/
theorem runScanLoop_keeps {P : State → Prop}
    (hP : ∀ u t, P u → runCode exec (.runScan u.j) u = .next t → P t) :
    ∀ (turns : Nat) (s t : State), P s → runScanLoop exec turns s = .next t → P t
  | 0, s, t, hs, h => by
    injection h with h
    exact h ▸ hs
  | turns + 1, s, t, hs, h => by
    simp only [runScanLoop] at h
    split at h
    · rename_i u hu
      have hPu := hP s u hs hu
      split at h
      · exact runScanLoop_keeps hP turns u t hPu h
      · injection h with h
        exact h ▸ hPu
    · rename_i o ho
      exact absurd h (fun h' => ho t h')

/-- The transitions of the controller (45_scan_control.md R345). -/
theorem blockStep_cases {s t : State} (h : blockStep exec s = .next t) :
    ((s.fsm = .idle ∨ s.fsm = .done ∨ s.fsm = .error) ∧ t = s) ∨
    (s.fsm = .lineStart ∧ t = lineStart s) ∨ (s.fsm = .classify ∧ t = classify s) ∨
    (s.fsm = .lineEnd ∧ t = lineEnd s) ∨
    (s.fsm = .runScan ∧ runScanLoop exec (s.remaining + 1) (s.setRunCnt 0) = .next t) ∨
    (s.fsm ≠ .runScan ∧ ∃ c, codeContext s = some c ∧ runCode exec c s = .next t) := by
  unfold blockStep at h
  cases hf : s.fsm <;> simp only [hf, Host.Outcome.next.injEq] at h <;> simp [codeContext, hf, h]

/-- A host command is START. -/
theorem decoded_hostWrite {num : Nat} {bits : List Bool} {i : Instr}
    (h : decoded (.hostWrite num) bits = some i) : i = .ctrlStart ∧ num = 0 := by
  simp only [decoded, decode] at h
  rcases hb : readField 32 bits with _ | ⟨v, rest⟩
  · simp [hb] at h
  · simp only [hb] at h
    split at h
    · rename_i heq
      split at heq
      · rename_i hz
        simp only [Except.ok.injEq, Prod.mk.injEq] at heq
        exact ⟨by simpa [heq.1] using h.symm, hz.1⟩
      · simp at heq
    · simp at h

@[simp] theorem popHost_of_nil (s : State) (h : s.host = []) : s.popHost = s := by
  cases s
  simp_all [State.popHost]

/-- The host writes a register: START or a stored value. -/
theorem hostWrite_cases {num : Nat} {v : Word} {s t : State} (h : hostWrite exec num v s = .next t) :
    (num = 0 ∧ execCtrlStart s = .next t) ∨ t = regWrite num v s := by
  unfold hostWrite at h
  split at h
  · rename_i i hi
    obtain ⟨rfl, rfl⟩ := decoded_hostWrite hi
    exact .inl ⟨rfl, h⟩
  · injection h with h
    exact .inr h.symm

/-- A step is a host move, taken from the list, or a transition of the block (log 1). -/
theorem step_cases {s t : State} (h : step s = .next t) :
    (∃ num v rest, s.host = .write num v :: rest ∧
      ((num = 0 ∧ execCtrlStart s.popHost = .next t) ∨ t = regWrite num v s.popHost)) ∨
    (∃ num rest, s.host = .read num :: rest ∧ t = hostRead num s.popHost) ∨
    (∃ i b rest, s.host = .supply i b :: rest ∧ ¬ (s.phase = .busy ∧ i.toNat < s.scan.len) ∧
      t = supplyByte i b s.popHost) ∨
    (∃ rest, s.host = .powerOn :: rest ∧ t = powerOnReset s.popHost) ∨
    ((s.host = [] ∨ ∃ rest, s.host = .letBlockRun :: rest) ∧ blockStep exec s.popHost = .next t) := by
  unfold step stepWith at h
  split at h
  · rename_i hh
    exact .inr (.inr (.inr (.inr ⟨.inl hh, by rw [popHost_of_nil s hh]; exact h⟩)))
  · rename_i rest hh
    exact .inr (.inr (.inr (.inr ⟨.inr ⟨rest, hh⟩, h⟩)))
  · rename_i num v rest hh
    exact .inl ⟨num, v, rest, hh, hostWrite_cases h⟩
  · rename_i num rest hh
    injection h with h
    exact .inr (.inl ⟨num, rest, hh, h.symm⟩)
  · rename_i i b rest hh
    unfold hostSupply at h
    split at h
    · exact absurd h (by simp)
    · rename_i hb
      injection h with h
      exact .inr (.inr (.inl ⟨i, b, rest, hh, hb, h.symm⟩))
  · rename_i rest hh
    injection h with h
    exact .inr (.inr (.inr (.inl ⟨rest, hh, h.symm⟩)))

end Sys2Proof.Machine
end

