-- ==== Sys2Proof/Laws/Memory.lean ====
section
/-! SUPPORT. The input byte space: every operation keeps the canonical form, and what lies below the listed positions
reads as an unlisted one. The block never writes the input; the host's supply is the only operation that does. -/

namespace Sys2Proof.Machine

/-- Every listed position lies above `i`. -/
def Memory.above (i : Nat) (m : Memory) : Prop := ∀ c ∈ m, i < c.1

theorem Memory.wf_cons (c : Host.Cell) (m : Memory) :
    Memory.wf (c :: m) = true ↔
      c.2 ≠ Memory.unlisted ∧ Memory.above c.1 m ∧ Memory.wf m = true := by
  induction m generalizing c with
  | nil => simp [Memory.wf, Memory.above]
  | cons d rest ih =>
    simp only [Memory.wf, Bool.and_eq_true, bne_iff_ne, ne_eq, decide_eq_true_eq, Memory.above,
      List.mem_cons, forall_eq_or_imp]
    constructor
    · rintro ⟨⟨h1, h2⟩, h3⟩
      refine ⟨h1, ⟨h2, fun e he => ?_⟩, h3⟩
      exact lt_trans h2 (((ih d).1 h3).2.1 e he)
    · rintro ⟨h1, ⟨h2, _⟩, h3⟩
      exact ⟨⟨h1, h2⟩, h3⟩

theorem Memory.read_of_above (m : Memory) (i : Nat) (h : Memory.above i m) :
    m.read i = Memory.unlisted := by
  induction m with
  | nil => rfl
  | cons c rest ih =>
    have hc : i < c.1 := h c (by simp)
    simp only [Memory.read]
    rw [if_neg (by omega)]
    exact ih fun d hd => h d (by simp [hd])

theorem Memory.above_write (m : Memory) (i j : Nat) (b : Byte) (h : Memory.above j m) (hi : j < i) :
    Memory.above j (m.write i b) := by
  induction m with
  | nil =>
    simp only [Memory.write]
    split <;> simp [Memory.above, hi]
  | cons c rest ih =>
    have hr : Memory.above j rest := fun d hd => h d (by simp [hd])
    have hc : j < c.1 := h c (by simp)
    simp only [Memory.write]
    split
    · intro d hd
      rcases List.mem_cons.1 hd with rfl | hd
      · exact hc
      · exact ih hr d hd
    · split <;> split
      · exact hr
      · simpa [Memory.above, hi] using hr
      · exact h
      · simp only [Memory.above, List.mem_cons, forall_eq_or_imp]
        exact ⟨hi, hc, hr⟩

/-- Supplying a byte keeps the canonical form. -/
theorem Memory.write_wf (m : Memory) (i : Nat) (b : Byte) (h : m.wf = true) : (m.write i b).wf = true := by
  induction m with
  | nil =>
    simp only [Memory.write]
    split
    · rfl
    · rename_i hb
      simp [Memory.wf, hb]
  | cons c rest ih =>
    obtain ⟨hc, ha, hr⟩ := (Memory.wf_cons c rest).1 h
    simp only [Memory.write]
    split
    · rename_i hlt
      exact (Memory.wf_cons _ _).2 ⟨hc, Memory.above_write rest i c.1 b ha hlt, ih hr⟩
    · split
      · rename_i heq
        split
        · exact hr
        · rename_i hb
          exact (Memory.wf_cons _ _).2 ⟨hb, by simpa [heq] using ha, hr⟩
      · split
        · exact h
        · rename_i hb
          refine (Memory.wf_cons _ _).2 ⟨hb, ?_, h⟩
          intro d hd
          rcases List.mem_cons.1 hd with rfl | hd
          · simp only; omega
          · have := ha d hd
            simp only; omega

theorem reset_memory_wf : State.reset.input.wf = true := rfl

end Sys2Proof.Machine
end

