-- ==== Sys2Proof/Laws/PerInstr.lean ====
section
/-! SUPPORT. Families of statements about every instruction as syntax, one lemma per constructor. `EncodedLength`: how
many bits a well-formed instruction has in its context (30_encoding.md R112 to R122, R126). -/

namespace Sys2Proof.Laws

theorem length_bitsMSB (n v : Nat) : (bitsMSB n v).length = n := by
  induction n with
  | zero => rfl
  | succ n ih => simp [bitsMSB, ih]

/-- The length column of spec/opcode_table.json: 8 or 16 bits at byte level (8 for a final `0xFF`), `q + 1 + k` or
`q + 1 + qbpp` for a code word, 1 or `1 + J` for a run bit, `n` for the padding, 32 for a host write. -/
def EncodedLength.bits (c : ParseCtx) (i : Instr) : Nat :=
  match c, i with
  | _, .plainByte _ => 8
  | _, .stuffedPair _ => 16
  | _, .mark none => 8
  | _, .mark (some _) => 16
  | .regular k _ _, .reg q _ => q + 1 + k
  | .regular _ _ qbpp, .esc q _ => q + 1 + qbpp
  | _, .run1 => 1
  | .runScan j, .run0 _ => 1 + j
  | .runInterrupt k _ _, .ri q _ => q + 1 + k
  | .runInterrupt _ _ qbpp, .riesc q _ => q + 1 + qbpp
  | _, .pad n => n
  | _, .ctrlStart => 32
  | _, _ => 0

/-- In every context that can parse it, the instruction encodes to that many bits. -/
def EncodedLength.Statement (i : Instr) : Prop :=
  ∀ c : ParseCtx, i.wf c = true → (encode c i).length = EncodedLength.bits c i

theorem EncodedLength.plainByte (b : Byte) : EncodedLength.Statement (.plainByte b) := by
  intro c h
  cases c <;> simp [Instr.wf, encode, bits, length_bitsMSB] at h ⊢

theorem EncodedLength.stuffedPair (z : BitVec 7) : EncodedLength.Statement (.stuffedPair z) := by
  intro c h
  cases c <;> simp [Instr.wf, encode, bits, length_bitsMSB] at h ⊢

theorem EncodedLength.mark (m : Option (BitVec 7)) : EncodedLength.Statement (.mark m) := by
  intro c h
  cases m <;> cases c <;> simp [Instr.wf, encode, bits, length_bitsMSB] at h ⊢

theorem EncodedLength.reg (q r : Nat) : EncodedLength.Statement (.reg q r) := by
  intro c h
  cases c <;> simp [Instr.wf, encode, encode.remainderWidth, bits, length_bitsMSB] at h ⊢
  omega

theorem EncodedLength.esc (q v : Nat) : EncodedLength.Statement (.esc q v) := by
  intro c h
  cases c <;> simp [Instr.wf, encode, encode.escapeWidth, bits, length_bitsMSB] at h ⊢
  omega

theorem EncodedLength.run1 : EncodedLength.Statement .run1 := by
  intro c h
  cases c <;> simp [Instr.wf, encode, bits] at h ⊢

theorem EncodedLength.run0 (t : Nat) : EncodedLength.Statement (.run0 t) := by
  intro c h
  cases c <;> simp [Instr.wf, encode, encode.tailWidth, bits, length_bitsMSB] at h ⊢
  omega

theorem EncodedLength.ri (q r : Nat) : EncodedLength.Statement (.ri q r) := by
  intro c h
  cases c <;> simp [Instr.wf, encode, encode.remainderWidth, bits, length_bitsMSB] at h ⊢
  omega

theorem EncodedLength.riesc (q v : Nat) : EncodedLength.Statement (.riesc q v) := by
  intro c h
  cases c <;> simp [Instr.wf, encode, encode.escapeWidth, bits, length_bitsMSB] at h ⊢
  omega

theorem EncodedLength.pad (n : Nat) : EncodedLength.Statement (.pad n) := by
  intro c h
  cases c <;> simp [Instr.wf, encode, bits] at h ⊢

theorem EncodedLength.ctrlStart : EncodedLength.Statement .ctrlStart := by
  intro c h
  cases c <;> simp [Instr.wf, encode, bits, length_bitsMSB] at h ⊢

end Sys2Proof.Laws
end

