-- ==== Sys2Proof/Laws/Rows.lean ====
section
/-! SUPPORT. The per-component memories and the line buffers: reading what was written, and what a write leaves alone. -/

namespace Sys2Proof.Machine

/-! ## One value per component -/

@[simp] theorem PerComp.get_set_self {α : Type} (v : PerComp α) (c : Fin Config.compMax) (a : α) :
    (v.set c a).get c = a := by
  fin_cases c <;> rfl

theorem PerComp.get_set_of_ne {α : Type} (v : PerComp α) (c d : Fin Config.compMax) (a : α) (h : d ≠ c) :
    (v.set c a).get d = v.get d := by
  fin_cases c <;> fin_cases d <;> first | rfl | exact absurd rfl h

@[simp] theorem PerComp.get_same {α : Type} (a : α) (c : Fin Config.compMax) : (PerComp.same a).get c = a := by
  fin_cases c <;> rfl

@[simp] theorem PerComp.get_mapBelow {α : Type} (n : Nat) (f : α → α) (v : PerComp α) (c : Fin Config.compMax) :
    (v.mapBelow n f).get c = if c.val < n then f (v.get c) else v.get c := by
  fin_cases c <;> rfl

/-- A property of every component survives the write of one component that has it. -/
theorem PerComp.forall_set {α : Type} {P : α → Prop} (v : PerComp α) (c : Fin Config.compMax) (a : α)
    (hv : ∀ d, P (v.get d)) (ha : P a) : ∀ d, P ((v.set c a).get d) := by
  intro d
  by_cases h : d = c
  · subst h; simpa using ha
  · rw [PerComp.get_set_of_ne v c d a h]; exact hv d

/-! ## Line buffers -/

@[simp] theorem LineBuf.cur_setCur (b : LineBuf) (row : List Nat) : (b.setCur row).cur = row := by
  rcases b with ⟨r0, r1, _ | _⟩ <;> rfl

@[simp] theorem LineBuf.prev_setCur (b : LineBuf) (row : List Nat) : (b.setCur row).prev = b.prev := by
  rcases b with ⟨r0, r1, _ | _⟩ <;> rfl

@[simp] theorem LineBuf.rowSel_setCur (b : LineBuf) (row : List Nat) : (b.setCur row).rowSel = b.rowSel := by
  rcases b with ⟨r0, r1, _ | _⟩ <;> rfl

@[simp] theorem LineBuf.cur_setPrev (b : LineBuf) (row : List Nat) : (b.setPrev row).cur = b.cur := by
  rcases b with ⟨r0, r1, _ | _⟩ <;> rfl

@[simp] theorem LineBuf.prev_setPrev (b : LineBuf) (row : List Nat) : (b.setPrev row).prev = row := by
  rcases b with ⟨r0, r1, _ | _⟩ <;> rfl

@[simp] theorem LineBuf.rowSel_setPrev (b : LineBuf) (row : List Nat) : (b.setPrev row).rowSel = b.rowSel := by
  rcases b with ⟨r0, r1, _ | _⟩ <;> rfl

/-- The swap after a line: what was decoded becomes the row above. -/
@[simp] theorem LineBuf.prev_toggle (b : LineBuf) : b.toggle.prev = b.cur := by
  rcases b with ⟨r0, r1, _ | _⟩ <;> rfl

@[simp] theorem LineBuf.cur_toggle (b : LineBuf) : b.toggle.cur = b.prev := by
  rcases b with ⟨r0, r1, _ | _⟩ <;> rfl

/-- A property of both rows is a property of CUR and PREV, whichever `ROWSEL` selects. -/
theorem LineBuf.rows_iff {P : List Nat → Prop} (b : LineBuf) : (P b.row0 ∧ P b.row1) ↔ (P b.cur ∧ P b.prev) := by
  rcases b with ⟨r0, r1, _ | _⟩ <;> simp [LineBuf.cur, LineBuf.prev, and_comm]

/-! ## Samples of a row -/

theorem sampleAt_set_self (row : List Nat) (i v : Nat) (h : i < row.length) : sampleAt (row.set i v) i = v := by
  simp [sampleAt, List.getD, h]

theorem sampleAt_set_of_ne (row : List Nat) (i j v : Nat) (h : j ≠ i) :
    sampleAt (row.set i v) j = sampleAt row j := by
  simp [sampleAt, List.getD, List.getElem?_set_ne h.symm]

/-- A sample is one of the row, or 0 past its end. -/
theorem sampleAt_le (row : List Nat) (i m : Nat) (h : ∀ v ∈ row, v ≤ m) : sampleAt row i ≤ m := by
  simp only [sampleAt, List.getD]
  rcases hr : row[i]? with _ | v
  · simp
  · exact h v (List.mem_of_getElem? hr)

/-- What a run fill writes is the run value; every other sample was there before. -/
theorem mem_fillRow (row : List Nat) (start n v w : Nat) (h : w ∈ fillRow row start n v) : w ∈ row ∨ w = v := by
  induction n generalizing row start with
  | zero => exact .inl h
  | succ n ih =>
    rcases ih _ _ h with h | h
    · exact List.mem_or_eq_of_mem_set h
    · exact .inr h

/-! ## The row of the current component after the two row writes -/

@[simp] theorem writeSample_line (s : State) (v : Nat) :
    (s.writeSample v).line = s.line.setCur (s.line.cur.set (s.x + 1) v) := by
  simp [State.line, State.writeSample]

@[simp] theorem fillRun_line (s : State) (n v : Nat) :
    (s.fillRun n v).line = s.line.setCur (fillRow s.line.cur (s.x + 1) n v) := by
  simp [State.line, State.fillRun]

end Sys2Proof.Machine
end

