-- ==== Sys2Proof/Tests/Slice0.lean ====
section
/-! SUPPORT. Tests: ill-formed terms that WellFormed refuses, words written out from the encodings of 30_encoding.md,
worked examples of the spec run for one step, and for every statement of Certificates/Slice0/Obligations.lean that has
hypotheses a state and operands that meet them, clause by clause. Expected values are the spec's. -/

namespace Sys2Proof.Tests

open Sys2Proof.Machine

/-! ## Small states -/

/-- The state an outcome goes on in. -/
def after (o : Host.Outcome State Fault Refusal) : Option State :=
  match o with
  | .next t => some t
  | _ => none

/-- Input bytes from position 0. -/
def inputOf (bytes : List Byte) : Memory := (bytes.zipIdx).foldl (fun m b => m.write b.2 b.1) []

/-- The input `E1 = 12 FF 00 80 FF D9` of 40_bitreader.md. -/
def e1 : Memory := inputOf [0x12, 0xFF, 0x00, 0x80, 0xFF, 0xD9]

/-- The bit reader at START (10_state.md R57). -/
def emptyReader : BitReader := ⟨0, 0, 0, false⟩

/-- One line of three 8-bit samples, one component. -/
def smallCfg : Cfg := { State.reset.cfg with width := 3, height := 1, p := 8, comps := 1, len := 6 }

/-- Two components of two lines, line interleaved, NEAR = 1. -/
def twoCfg : Cfg := { State.reset.cfg with width := 2, height := 2, p := 8, near := 1, comps := 2, ilv := 1 }

/-- The state right after START of `c` over `m`. -/
def started (c : Cfg) (m : Memory) : State := initScan (latchScan { State.reset with cfg := c, input := m })

/-- A cache that holds `bits` and an input whose next byte is a marker. -/
def readerOf (bits : List Bool) : BitReader :=
  ⟨BitVec.ofNat 32 (ofBitsMSB bits * 2 ^ (32 - bits.length)), bits.length, 0, false⟩

/-- The sample at column 1 with the neighbours given, `bits` next, the controller in `f`. -/
def atSample (ra rb rc rd : Nat) (bits : List Bool) (f : Fsm) : State :=
  { started smallCfg [] with
    fsm := f
    x := 1
    brd := readerOf bits
    lb := PerComp.same ⟨[0, ra, 0, 0, 0], [0, rc, rb, rd, 0], false⟩ }

/-- A run at column 0 of a line of `width` samples whose west neighbour is 7, with RUNIDX `i`. -/
def atRun (width : Nat) (i : Fin 32) (bits : List Bool) : State :=
  { State.reset with
    phase := .busy
    fsm := .runScan
    scan := { State.reset.scan with width := width }
    runIdx := PerComp.same i
    brd := readerOf bits
    lb := PerComp.same ⟨7 :: List.replicate (width + 1) 0, zeroRow width, false⟩ }

/-- 00_scope.md R9: the parameters that stand in the machine as literals. -/
theorem test_parameters :
    runOrder.length = Config.jLen ∧ State.reset.ctxi.size = Config.nRiCtx ∧
      Config.streamBufMin = 40000 ∧ Config.streamSlide = 64 ∧ 2 ^ Config.addrBits - 1 = (0xFFFFFFFF : Word).toNat := by
  decide

/-! ## Ill-formed terms, one for each check -/

theorem test_wf_plainByte_FF : Instr.wf .byteLevel (.plainByte 0xFF) = false := by decide
theorem test_wf_reg_quotient : Instr.wf (.regular 2 32 8) (.reg 23 0) = false := by decide
theorem test_wf_reg_remainder : Instr.wf (.regular 2 32 8) (.reg 0 4) = false := by decide
theorem test_wf_esc_quotient : Instr.wf (.regular 2 32 8) (.esc 22 0) = false := by decide
theorem test_wf_esc_value : Instr.wf (.regular 2 32 8) (.esc 23 256) = false := by decide
theorem test_wf_run0_tail : Instr.wf (.runScan 2) (.run0 4) = false := by decide
theorem test_wf_ri_quotient : Instr.wf (.runInterrupt 2 31 8) (.ri 22 0) = false := by decide
theorem test_wf_ri_remainder : Instr.wf (.runInterrupt 2 31 8) (.ri 0 4) = false := by decide
theorem test_wf_riesc_quotient : Instr.wf (.runInterrupt 2 31 8) (.riesc 21 0) = false := by decide
theorem test_wf_riesc_value : Instr.wf (.runInterrupt 2 31 8) (.riesc 22 256) = false := by decide
theorem test_wf_start_register : Instr.wf (.hostWrite 1) .ctrlStart = false := by decide
theorem test_wf_context :
    Instr.wf (.runScan 0) (.reg 0 0) = false ∧ Instr.wf (.regular 0 32 8) .run1 = false ∧
      Instr.wf .finalize (.plainByte 0) = false := by decide

/-! ## Words written out from 30_encoding.md R112 to R126, bit by bit -/

theorem test_decode_plainByte :
    decode .byteLevel [false, false, false, true, false, false, true, false] = .ok (.plainByte 0x12, []) := by decide
/-- `FF 41`. -/
theorem test_decode_stuffedPair :
    decode .byteLevel [true, true, true, true, true, true, true, true,
      false, true, false, false, false, false, false, true] = .ok (.stuffedPair 0x41, []) := by decide
/-- `FF D9`. -/
theorem test_decode_mark :
    decode .byteLevel [true, true, true, true, true, true, true, true,
      true, true, false, true, true, false, false, true] = .ok (.mark (some 0x59), []) := by decide
theorem test_decode_mark_last :
    decode .byteLevel [true, true, true, true, true, true, true, true] = .ok (.mark none, []) := by decide
/-- 41_golomb.md R200: `01 10` with k = 2. -/
theorem test_decode_reg : decode (.regular 2 32 8) [false, true, true, false] = .ok (.reg 1 2, []) := by decide
/-- 41_golomb.md R201: `0^23 1 00000101`. -/
theorem test_decode_esc :
    decode (.regular 2 32 8)
      [false, false, false, false, false, false, false, false, false, false, false, false,
       false, false, false, false, false, false, false, false, false, false, false, true,
       false, false, false, false, false, true, false, true] = .ok (.esc 23 5, []) := by decide
theorem test_decode_run1 : decode (.runScan 4) [true, false] = .ok (.run1, [false]) := by decide
/-- 44_run_mode.md R305: `0 1111` with J = 4. -/
theorem test_decode_run0 :
    decode (.runScan 4) [false, true, true, true, true] = .ok (.run0 15, []) := by decide
/-- 44_run_mode.md R321: `1 11`. -/
theorem test_decode_ri : decode (.runInterrupt 2 31 8) [true, true, true] = .ok (.ri 0 3, []) := by decide
/-- 44_run_mode.md R321, MAXVAL = 3: `01 10` is an escape. -/
theorem test_decode_riesc : decode (.runInterrupt 1 4 2) [false, true, true, false] = .ok (.riesc 1 2, []) := by decide
theorem test_decode_pad : decode .finalize [false, false, false, false] = .ok (.pad 4, []) := by decide
/-- Register 0x00, reserved bits set, bit 0 set. -/
theorem test_decode_ctrlStart : decode (.hostWrite 0) (bitsMSB 32 0x80000003) = .ok (.ctrlStart, []) := by decide

theorem test_decode_refusals :
    decode .byteLevel [true, true] = .error .truncated ∧
      decode (.regular 2 32 8) [false, false] = .error .truncated ∧
      decode (.runScan 2) [false, true] = .error .truncated ∧
      decode .finalize [false, true] = .error .nonZeroPadding ∧
      decode (.hostWrite 0) (bitsMSB 32 2) = .error .notACommand ∧
      decode (.hostWrite 1) (bitsMSB 32 1) = .error .notACommand := by decide

/-- The words of spec/opcode_table.json as the table numbers their bits. -/
theorem test_tableWords :
    decodeTableWord 16 0xFF00 = some (.stuffedPair 0) ∧ decodeTableWord 16 0xFFFF = some (.mark (some 0x7F)) ∧
      decodeTableWord 8 1 = some .run1 ∧ decodeTableWord 8 0 = some (.run0 0) ∧
      decodeTableWord 8 0x41 = some (.plainByte 0x41) ∧ decodeTableWord 32 1 = some .ctrlStart ∧
      decodeTableWord 32 0 = none ∧ decodeTableWord 24 0 = none := by decide

/-! ## Worked examples of the spec -/

/-- 95_test_vectors.md 2.1: `Refill` on E1, run from START. -/
theorem test_refill_E1 : refill e1 6 emptyReader = .done () ⟨0x12FF0100, 31, 4, false⟩ := by decide
/-- 95_test_vectors.md 2.1: a stuffed pair split by a full cache. -/
theorem test_refill_split :
    refill (inputOf [0x00, 0xFF, 0x00, 0xFF, 0x00, 0xFF, 0xD9]) 7 emptyReader =
      .done () ⟨0x00FF01FC, 30, 4, true⟩ := by decide
/-- 40_bitreader.md R156 on E1. -/
theorem test_readValue_E1 : readValue e1 6 12 emptyReader = .done 303 ⟨0xF0100000, 19, 4, false⟩ := by decide
/-- 95_test_vectors.md 2.1: a plain byte, 0x12 into an empty cache. -/
theorem test_plainByte :
    (after (exec (.plainByte 0x12) (started smallCfg e1))).map (·.brd) = some ⟨0x12000000, 8, 1, false⟩ := by decide
/-- 95_test_vectors.md 2.1: `FF 7F` into an empty cache. -/
theorem test_stuffedPair :
    (after (exec (.stuffedPair 0x7F) (started smallCfg e1))).map (·.brd) = some ⟨0xFFFE0000, 15, 2, false⟩ := by decide
/-- 95_test_vectors.md 2.1: a marker at position 0. -/
theorem test_mark :
    (after (exec (.mark (some 0)) (started smallCfg e1))).map (fun t => (t.phase, t.err, t.brd)) =
      some (.error, .invalidCompressedData, emptyReader) := by decide

/-- 43_regular_mode.md R272, second row. -/
theorem test_reg :
    (after (step (atSample 10 20 5 40 [false, true, true, true] .regular))).map
        (fun t => (sampleAt t.line.cur 2, t.x, t.fsm, t.ctxr.get 268)) =
      some (16, 2, .classify, ⟨8, -1, -1, 2⟩) := by decide
/-- 95_test_vectors.md 2.5: the sum wraps below 0. -/
theorem test_reg_wraps :
    (after (step (atSample 0 3 100 100 [false, true, true, true] .regular))).map
        (fun t => (sampleAt t.line.cur 2, t.ctxr.get 292)) = some (252, ⟨8, -1, -1, 2⟩) := by decide
/-- 95_test_vectors.md 2.5: the escape with value 255. -/
theorem test_esc :
    (after (step (atSample 10 20 5 40 (List.replicate 23 false ++ true :: List.replicate 8 true) .regular))).map
        (fun t => (sampleAt t.line.cur 2, t.ctxr.get 268)) = some (148, ⟨132, 0, 1, 2⟩) := by decide

/-- 44_run_mode.md R302: `RUNIDX = 4, remaining = 3`, bits `1 1`. -/
theorem test_run1 :
    (after (step (atRun 3 4 [true, true]))).map (fun t => (t.runIdx.c0, t.x, t.fsm, t.brd.valid)) =
      some (5, 3, .classify, 0) := by decide
/-- 44_run_mode.md R304: `RUNIDX = 0, remaining = 4`, bits `1111`. -/
theorem test_run1_line :
    (after (step (atRun 4 0 [true, true, true, true]))).map (fun t => (t.runIdx.c0, t.lb.c0.row0)) =
      some (4, [7, 7, 7, 7, 7, 0]) := by decide
/-- 44_run_mode.md R305: `RUNIDX = 16, remaining = 5`, bits `0 1111`. -/
theorem test_run0_overrun :
    (after (step (atRun 5 16 [false, true, true, true, true]))).map (fun t => (t.err, t.x, t.runIdx.c0)) =
      some (.invalidCompressedData, 0, 16) := by decide
/-- 44_run_mode.md R306: `RUNIDX = 16, remaining = 15`, bits `0 1111`. -/
theorem test_run0_fills :
    (after (step (atRun 15 16 [false, true, true, true, true]))).map (fun t => (t.fsm, t.x, t.runIdx.c0)) =
      some (.classify, 15, 15) := by decide

/-- 44_run_mode.md R321, second row. -/
theorem test_ri :
    (after (step (atSample 10 20 20 20 [true, true, true] .runInterrupt))).map
        (fun t => (sampleAt t.line.cur 2, t.ctxi.get 0)) = some (18, ⟨6, 0, 2, 1⟩) := by decide
/-- 44_run_mode.md R321, third row: SIGN is -1. -/
theorem test_ri_sign :
    (after (step (atSample 30 20 20 20 [true, true, true] .runInterrupt))).map
        (fun t => (sampleAt t.line.cur 2, t.ctxi.get 0)) = some (22, ⟨6, 0, 2, 1⟩) := by decide
/-- 44_run_mode.md R321, sixth row: RUNIDX 24, the escape `0^14 1 00001001`. -/
theorem test_riesc :
    (after (step { atSample 10 20 20 20 (List.replicate 14 false ++ true :: bitsMSB 8 9) .runInterrupt with
        runIdx := PerComp.same 24 })).map (fun t => (sampleAt t.line.cur 2, t.ctxi.get 0, t.runIdx.c0)) =
      some (25, ⟨9, 0, 2, 0⟩, 23) := by decide

/-- 95_test_vectors.md 2.1: `A0 FF D9` after three bits. -/
theorem test_pad :
    (after (exec (.pad 5) { started smallCfg (inputOf [0xA0, 0xFF, 0xD9]) with brd := ⟨0, 5, 1, false⟩ })).map
        (fun t => (t.phase, t.bytepos)) = some (.done, 1) := by decide
/-- 95_test_vectors.md 2.1: `A1 FF D9` after three bits. -/
theorem test_pad_one :
    (after (exec (.pad 5) { started smallCfg (inputOf [0xA1, 0xFF, 0xD9]) with
        brd := ⟨0x08000000, 5, 1, false⟩ })).map (fun t => (t.phase, t.err, t.bytepos)) =
      some (.error, .tooMuchCompressedData, 0) := by decide
/-- 10_state.md R57: START with the defaults of P = 8. -/
theorem test_ctrlStart :
    (after (exec .ctrlStart { State.reset with cfg := smallCfg })).map
        (fun t => (t.fsm, [t.scan.maxval, t.scan.t1, t.scan.t2, t.scan.t3, t.scan.limit], t.ctxr.get 364)) =
      some (.lineStart, [255, 3, 7, 21, 32], ⟨4, 0, 0, 1⟩) := by decide
/-- 95_test_vectors.md, program P8: `CFG_P = 1` is refused. -/
theorem test_ctrlStart_refused :
    (after (exec .ctrlStart { State.reset with cfg := { smallCfg with p := 1 } })).map (fun t => (t.phase, t.err)) =
      some (.error, .parameterValueNotSupported) := by decide

/-- 95_test_vectors.md 2.3, three rows: RANGE, qbpp, LIMIT, thresholds, A0. -/
theorem test_traits :
    [traitRange 65535 5, traitQbpp 5959, traitLimit 16, initialA 5959] = [5959, 13, 64, 93] ∧
      defaultThresholds 65535 5 = (33, 92, 311) ∧ [traitRange 100 2, traitQbpp 21, traitBpp 100] = [21, 5, 7] ∧
      defaultThresholds 100 2 = (7, 13, 24) ∧ [traitRange 1 0, traitQbpp 2, traitBpp 1, initialA 2] = [2, 1, 2, 2] ∧
      defaultThresholds 1 0 = (1, 1, 1) := by decide

/-! ## Hypotheses that hold: encoding and the bit reader -/

theorem test_witness_DecodeOfEncode_bounds :
    Instr.wf (.regular 2 32 8) (.reg 22 3) = true ∧ Instr.wf (.regular 2 32 8) (.esc 23 255) = true ∧
      Instr.wf (.runScan 2) (.run0 3) = true ∧ Instr.wf (.runInterrupt 1 4 2) (.ri 0 1) = true ∧
      Instr.wf (.runInterrupt 1 4 2) (.riesc 1 3) = true ∧ Instr.wf .byteLevel (.plainByte 0xFE) = true := by decide

theorem test_witness_DecodeOfEncode_last :
    Instr.wf .byteLevel (.mark none) = true ∧ Instr.wf .finalize (.pad 7) = true ∧
      Instr.wf (.hostWrite 0) .ctrlStart = true := by decide

theorem test_witness_DecodedForm :
    (∀ n, ParseCtx.regular 2 32 8 ≠ .hostWrite n) ∧
      decode (.regular 2 32 8) [false, true, true, false, true] = .ok (.reg 1 2, [true]) := by
  refine ⟨?_, by decide⟩
  intro n h
  cases h

theorem test_witness_MarkerPosition_found : markerPos e1 6 = 4 ∧ e1.read 4 = 0xFF := by decide
theorem test_witness_MarkerPosition_last : markerPos (inputOf [0x12, 0xFF]) 2 = 1 := by decide
theorem test_witness_MarkerPosition_none : markerPos (inputOf [0x12, 0xFF, 0x00]) 3 = 3 := by decide

theorem test_witness_RefillRunsByteForms :
    byteFormAt e1 6 ⟨0, 24, 0, false⟩ = .plainByte 0x12 ∧ byteFormAt e1 6 ⟨0, 24, 1, false⟩ = .stuffedPair 0 ∧
      byteFormAt e1 6 ⟨0, 24, 4, false⟩ = .mark (some 0x59) := by decide

theorem test_witness_ReaderOk_start : ReaderOk e1 6 emptyReader := by unfold ReaderOk; decide
theorem test_witness_ReaderOk_marker : ReaderOk e1 6 ⟨0, 0, 4, false⟩ := by unfold ReaderOk; decide
theorem test_witness_ReaderOk_split : ReaderOk e1 6 ⟨0x12FE0000, 15, 2, true⟩ := by unfold ReaderOk; decide

theorem test_witness_Refill_outcomes :
    refill e1 6 emptyReader = .done () ⟨0x12FF0100, 31, 4, false⟩ ∧
      refill e1 6 ⟨0, 0, 4, false⟩ = .raised .invalidCompressedData ⟨0, 0, 4, false⟩ := by decide

theorem test_witness_FastPath : nextFF (inputOf [1, 2, 3, 4]) 4 emptyReader = 4 := by decide

theorem test_witness_ReadValue_outcomes :
    readValue e1 6 24 emptyReader = .done 0x12FF01 ⟨0, 7, 4, false⟩ ∧
      readValue e1 6 1 ⟨0, 0, 4, false⟩ = .raised .invalidCompressedData ⟨0, 0, 4, false⟩ := by decide

/-- 40_bitreader.md R155 at its boundary: eight bits in the cache are enough for eight and not for nine. -/
theorem test_witness_ReadValue_schedule :
    readValue e1 6 8 ⟨0x12000000, 8, 1, false⟩ = .done 0x12 ⟨0, 0, 1, false⟩ ∧
      refill e1 6 ⟨0x12000000, 8, 1, false⟩ = .done () ⟨0x12FF0100, 31, 4, false⟩ ∧
      readValue e1 6 9 ⟨0x12000000, 8, 1, false⟩ = .done 0x25 ⟨0xFE020000, 22, 4, false⟩ ∧
      refill e1 6 ⟨0x80000000, 1, 4, false⟩ = .done () ⟨0x80000000, 1, 4, false⟩ ∧
      readValue e1 6 2 ⟨0x80000000, 1, 4, false⟩ = .raised .invalidCompressedData ⟨0x80000000, 1, 4, false⟩ := by
  decide

/-- 40_bitreader.md R158 at VALID 8 and 7, and 41_golomb.md R207: a table entry, the sentinel, an entry longer than
VALID, and a Golomb parameter without a table. -/
theorem test_witness_PeekTable_schedule :
    peekByte e1 6 ⟨0x12000000, 8, 1, false⟩ = .done 0x12 ⟨0x12000000, 8, 1, false⟩ ∧
      peekByte e1 6 ⟨0x24000000, 7, 4, false⟩ = .done 0x24 ⟨0x24000000, 7, 4, false⟩ ∧
      peekByte e1 6 ⟨0, 0, 4, false⟩ = .raised .invalidCompressedData ⟨0, 0, 4, false⟩ ∧
      glut 2 0x68 = (4, 6) ∧ (glut 2 0).1 = 0 ∧ (glut 2 0x04).1 = 8 ∧
      readRegular e1 6 2 32 8 ⟨0x68000000, 8, 1, false⟩ = .done (.reg 1 2) ⟨0x80000000, 4, 1, false⟩ ∧
      readRegular e1 6 2 32 8 ⟨0x04000000, 7, 4, false⟩ = .raised .invalidCompressedData ⟨0x00000000, 1, 4, false⟩ ∧
      readRegular e1 6 16 32 8 emptyReader = readCodeWord e1 6 16 32 8 .reg .esc emptyReader := by decide

theorem test_witness_ReadHighBits_outcomes :
    readHighBits e1 6 emptyReader = .done 3 ⟨0x2FF01000, 27, 4, false⟩ ∧
      readHighBits e1 6 ⟨0, 5, 4, false⟩ = .raised .invalidCompressedData ⟨0, 0, 4, false⟩ := by decide

theorem test_witness_BytePosition : currentBytePosition e1 ⟨0x80000000, 9, 4, false⟩ = 3 := by decide

theorem test_witness_PeekTable_bound : escThreshold 20 2 = 17 ∧ escThreshold 64 16 = 47 := by decide

theorem test_witness_FetchAgrees_bounds :
    readCode (.regular 0 32 8) (started smallCfg e1) = .done (.reg 3 0) ⟨0x2FF01000, 27, 4, false⟩ ∧
      readCode (.runScan 15) (started smallCfg e1) = .done (.run0 0x12FF) ⟨0x01000000, 15, 4, false⟩ ∧
      readCode (.runInterrupt 24 31 8) { started smallCfg e1 with brd := ⟨0x80000000, 1, 4, false⟩ } =
        .raised .invalidCompressedData ⟨0, 0, 4, false⟩ := by decide

/-! ## Hypotheses that hold: a running scan -/

theorem started_latched : LatchedInv (started smallCfg e1) :=
  fun _ => ⟨smallCfg, rfl, by decide⟩

theorem started_context : ContextInv (started smallCfg e1) := by
  intro _
  constructor
  · intro q
    have h : (started smallCfg e1).ctxr.get q = ⟨4, 0, 0, 1⟩ := by
      change (Vector.replicate Config.nRegCtx (⟨4, 0, 0, 1⟩ : RegCtx))[q] = _
      simp
    rw [h]
    unfold RegCtxOk
    decide
  · intro t
    have h : (started smallCfg e1).ctxi.get t = ⟨4, 0, 1, 0⟩ := by
      change (Vector.replicate 2 (⟨4, 0, 1, 0⟩ : RiCtx))[t] = _
      simp
    rw [h]
    unfold RiCtxOk
    decide

theorem started_samples : SampleInv (started smallCfg e1) := by
  intro _ c
  fin_cases c <;> (unfold RowOk; decide)

theorem started_position : PositionInv (started smallCfg e1) := by unfold PositionInv; decide

theorem started_status : StatusInv (started smallCfg e1) := by unfold StatusInv; decide

theorem started_reader : ReaderInv (started smallCfg e1) := fun _ => test_witness_ReaderOk_start

theorem started_memory : MemoryInv (started smallCfg e1) := by unfold MemoryInv; decide

/-- The seven hypotheses of the invariant statements, together, with a step that completes. -/
theorem test_witness_Inv :
    Inv (started smallCfg e1) ∧ ∃ t, step (started smallCfg e1) = .next t ∧ t.fsm = .classify :=
  ⟨⟨started_memory, started_status, started_latched, started_reader, started_context, started_samples,
    started_position⟩, _, rfl, rfl⟩

theorem test_witness_CodeContextFits :
    codeContext { started smallCfg e1 with fsm := .regular } = some (.regular 2 32 8) ∧
      codeContext { started smallCfg e1 with fsm := .runScan } = some (.runScan 0) ∧
      codeContext { started smallCfg e1 with fsm := .runInterrupt } = some (.runInterrupt 2 31 8) := by decide

theorem test_witness_ScanTerminates :
    (started smallCfg e1).host = [] ∧ (started smallCfg e1).fsm = .lineStart ∧ (started smallCfg e1).y = 0 ∧
      (started smallCfg e1).comp = 0 := by decide

/-- 44_run_mode.md R321, sixth row: RUNIDX 24 gives `glimit = 23`. -/
theorem test_witness_CodeContext_glimit :
    codeContext { atSample 10 20 20 20 [] .runInterrupt with runIdx := PerComp.same 24 } =
      some (.runInterrupt 2 23 8) := by decide

/-! ## Hypotheses that hold: the byte forms -/

theorem test_witness_ByteForms_bounds :
    (readerOf (List.replicate 17 true)).valid = 17 ∧ (readerOf (List.replicate 17 true)).afterFF = false ∧
      (readerOf (List.replicate 18 true)).valid = 18 ∧ (readerOf (List.replicate 24 true)).valid = 24 ∧
      (readerOf (List.replicate 25 true)).valid = 25 := by decide

/-- The four loading clauses at their boundary, and the clause without room. -/
theorem test_witness_ByteForms_outcomes :
    (after (exec (.plainByte 1) { started smallCfg e1 with brd := ⟨0, 24, 0, false⟩ })).map (·.brd) =
        some ⟨1, 32, 1, false⟩ ∧
      (after (exec (.stuffedPair 1) { started smallCfg e1 with brd := ⟨0, 17, 0, false⟩ })).map (·.brd) =
        some ⟨0x7F81, 32, 2, false⟩ ∧
      (after (exec (.stuffedPair 1) { started smallCfg e1 with brd := ⟨0, 18, 0, false⟩ })).map (·.brd) =
        some ⟨0x3F80, 25, 1, true⟩ ∧
      (after (exec (.stuffedPair 1) { started smallCfg e1 with brd := ⟨0, 24, 1, true⟩ })).map (·.brd) =
        some ⟨0x81, 32, 2, false⟩ ∧
      (after (exec (.plainByte 1) { started smallCfg e1 with brd := ⟨0, 25, 0, false⟩ })).map (·.brd) =
        some ⟨0, 25, 0, false⟩ := by decide

theorem test_witness_MarkLoadsNothing :
    (started smallCfg e1).brd.valid = 0 ∧ (readerOf [true]).valid ≠ 0 := by decide

/-! ## Hypotheses that hold: regular mode -/

theorem test_witness_GolombParameter :
    golombK 1 4 = 2 ∧ golombK 64 16777200 = 18 ∧ golombK 33 0 = 0 ∧ golombK 1 (2 ^ 24 - 1) = 24 := by decide

/-- 43_regular_mode.md R267, its examples: one in each clause, at the ends of the range of C. -/
theorem test_witness_BiasCancel :
    biasCancel (-4) (-128) 2 = (-1, -128) ∧ biasCancel (-9) 0 4 = (-3, -1) ∧ biasCancel 3 127 3 = (0, 127) ∧
      biasCancel (-3) 0 4 = (-3, 0) := by decide

theorem test_witness_ContextUpdates :
    RegCtxOk 64 ⟨4, 0, 0, 1⟩ ∧ RegCtxOk 64 ⟨1, 0, 0, 64⟩ ∧ RiCtxOk 64 ⟨3, 0, 64, 10⟩ ∧ RiCtxOk 3 ⟨0, 0, 1, 0⟩ := by
  unfold RegCtxOk RiCtxOk; decide

/-- 43_regular_mode.md R269: an update with the halving and one without. -/
theorem test_witness_RegularUpdateOrder :
    updateRegular (latch smallCfg) ⟨100, -5, 3, 64⟩ 0 = ⟨50, -3, 3, 33⟩ ∧
      updateRegular (latch smallCfg) ⟨4, 0, 0, 1⟩ 3 = ⟨7, 0, 1, 2⟩ ∧ (latch smallCfg).reset = 64 := by decide

/-- The bounds of a REG and an ESC sample, met at the sample of `test_reg`. -/
theorem test_witness_RegularSample :
    let s := atSample 10 20 5 40 [] .regular
    s.regularK = 2 ∧ 2 < 2 ^ golombK s.regularCtx.n s.regularCtx.a ∧
      (regularError s.scan.near s.regularK s.regularCtx 6).natAbs ≤ 65535 ∧ s.regularCtx.a + 3 < 2 ^ 24 ∧
      (s.regularCtx.b + 3 * (2 * s.scan.near + 1)).natAbs < 2 ^ 24 := by decide

/-- 95_test_vectors.md 2.5: each of the three sums of a regular sample out of bounds. -/
theorem test_witness_SampleBounds_regular :
    65535 < (regularError 0 17 ⟨2 ^ 17, 0, 0, 1⟩ 131071).natAbs ∧
      2 ^ 24 ≤ 2 ^ 24 - 4 + (regularError 0 24 ⟨2 ^ 24 - 4, 0, 0, 1⟩ 8).natAbs ∧
      2 ^ 24 ≤ (-(2 ^ 24 - 3) + regularError 0 7 ⟨100, -(2 ^ 24 - 3), 0, 1⟩ 7 * 1 : Int).natAbs := by decide

/-- 95_test_vectors.md 2.7, last row, and an error above ERR_LIMIT. -/
theorem test_witness_SampleBounds_interruption :
    2 ^ 24 ≤ 2 ^ 24 - 2 + (3 + 1 - 0) / 2 ∧ 65535 < (riError 17 0 ⟨2 ^ 17, 0, 1, 0⟩ 131072).natAbs := by decide

theorem test_witness_RowWrites :
    (atSample 10 20 5 40 [] .regular).x + 1 < (atSample 10 20 5 40 [] .regular).line.cur.length ∧
      fillRow [7, 0, 0, 0] 1 2 7 = [7, 7, 7, 0] := by decide

/-! ## Hypotheses that hold: traits, prediction, reconstruction -/

theorem test_witness_legal_smallest :
    (latch { smallCfg with p := 2, maxval := 1, width := 1 }).legal = true := by decide
theorem test_witness_legal_largest :
    (latch { smallCfg with p := 16, near := 255, width := 65535, height := 65535, comps := 4, ilv := 1 }).legal =
      true := by decide

theorem test_witness_DefaultThresholds :
    1 ≤ min 255 (65535 / 2) ∧ defaultThresholds 255 127 = (128, 128, 128) ∧ defaultThresholds 3 0 = (2, 3, 3) := by
  decide

/-- 42_traits_predictor.md R231, its examples with T = (3, 7, 21): one for each region. -/
theorem test_witness_Quantiser :
    [-21, -20, -6, -2, 0, 2, 3, 20, 21].map (quantize (latch smallCfg)) = [-4, -3, -2, -1, 0, 1, 2, 3, 4] := by decide

/-- 42_traits_predictor.md R240, its examples. -/
theorem test_witness_ContextNumber :
    contextNumber (3, 3, -2) = 268 ∧ contextSign (0, -1, 2) = -1 ∧ contextNumber (0, -1, 2) = 7 ∧
      contextNumber (-4, -4, -4) = 364 ∧ runCondition (0, 0, 0) = true := by decide

/-- 42_traits_predictor.md R245, its examples: one for each case. -/
theorem test_witness_Median : med 10 20 25 = 10 ∧ med 10 20 5 = 20 ∧ med 10 20 15 = 15 := by decide

/-- 43_regular_mode.md R270, its examples, at both ends. -/
theorem test_witness_Lossless :
    (latch smallCfg).near = 0 ∧ (latch smallCfg).range = (latch smallCfg).maxval + 1 ∧
      reconstruct (latch smallCfg) 255 3 = 2 ∧ reconstruct (latch smallCfg) 3 (-10) = 249 ∧
      reconstruct (latch smallCfg) 0 (-256) = 0 ∧ reconstruct (latch smallCfg) 255 256 = 255 := by decide

theorem test_witness_ReconstructionIsWithinNear :
    (latch twoCfg).legal = true ∧ reconstruct (latch twoCfg) 55 9 = 82 ∧ (255 : Int) ≤ (latch twoCfg).maxval := by
  decide

/-! ## Hypotheses that hold: run mode -/

/-- A full count that does not end the line, a full one that does, and a truncated one. -/
theorem test_witness_RunBitOne :
    (after (exec .run1 (atRun 3 4 []))).map (fun t => (t.runCnt, t.runIdx.c0, t.fsm)) = some (2, 5, .runScan) ∧
      (after (exec .run1 (atRun 2 4 []))).map (fun t => (t.runCnt, t.runIdx.c0, t.fsm)) = some (0, 5, .classify) ∧
      (after (exec .run1 (atRun 1 4 []))).map (fun t => (t.runCnt, t.runIdx.c0, t.fsm)) =
        some (0, 4, .classify) := by decide

/-- The three clauses at the end of a line of five samples. -/
theorem test_witness_RunStop :
    (after (exec (.run0 4) (atRun 5 16 []))).map (fun t => (t.x, t.fsm)) = some (4, .runInterrupt) ∧
      (after (exec (.run0 5) (atRun 5 16 []))).map (fun t => (t.x, t.fsm)) = some (5, .classify) ∧
      (after (exec (.run0 6) (atRun 5 16 []))).map (fun t => (t.x, t.fsm)) = some (0, .error) := by decide

theorem test_witness_InterruptionPrediction :
    riType (latch twoCfg) ⟨50, 51, 0, 0⟩ = 1 ∧ riType (latch twoCfg) ⟨50, 52, 0, 0⟩ = 0 ∧
      riSign 0 ⟨52, 50, 0, 0⟩ = -1 ∧ riSign 0 ⟨50, 52, 0, 0⟩ = 1 := by decide

/-- 95_test_vectors.md 2.7: `|Errval|` 5 with RItype 1 and map 0, 3 with RItype 0 and map 1. -/
theorem test_witness_InterruptionMapping :
    (9 : Int) = 2 * (5 : Int).natAbs - 1 - riMap 2 ⟨4, 0, 1, 0⟩ 5 ∧
      (5 : Int) = 2 * (-3 : Int).natAbs - 0 - riMap 2 ⟨4, 0, 1, 0⟩ (-3) := by decide

/-- The bounds of an RI sample, met at the sample of `test_ri`; and a context at RESET (44_run_mode.md R321). -/
theorem test_witness_InterruptionSample :
    let s := atSample 10 20 20 20 [] .runInterrupt
    s.riType = 0 ∧ s.riK = 2 ∧ (riError 2 0 (s.ctxi.get 0) 3).natAbs ≤ 65535 ∧
      (s.ctxi.get 0).a + (3 + 1 - 0) / 2 < 2 ^ 24 ∧ updateRi 64 0 ⟨3, 0, 64, 10⟩ 0 0 = ⟨1, 0, 33, 5⟩ := by decide

/-! ## Hypotheses that hold: the controller, the sink and the host -/

theorem test_witness_Start :
    (started smallCfg e1).phase = .busy ∧ State.reset.phase ≠ .busy ∧ (latch smallCfg).legal = true ∧
      (latch State.reset.cfg).legal = false := by decide

/-- A legal configuration with one field moved just outside, for each refusal. -/
theorem test_witness_StartRefuses :
    (latch { smallCfg with width := 0 }).legal = false ∧ (latch { smallCfg with height := 0 }).legal = false ∧
      (latch { smallCfg with p := 17 }).legal = false ∧ (latch { smallCfg with maxval := 256 }).legal = false ∧
      (latch { smallCfg with near := 128 }).legal = false ∧ (latch { smallCfg with t1 := 8 }).legal = false ∧
      (latch { smallCfg with t3 := 256 }).legal = false ∧ (latch { smallCfg with reset := 2 }).legal = false ∧
      (latch { smallCfg with comps := 2 }).legal = false ∧ (latch { smallCfg with comps := 5, ilv := 1 }).legal = false ∧
      (latch { smallCfg with ilv := 2 }).legal = false := by decide

theorem test_witness_RegisterWrites :
    regRead 0x03 (regWrite 0x03 0xFFFFFFFF State.reset) = 31 ∧ regRead 0x0C (regWrite 0x0C 0xFFFFFFFF State.reset) =
      0xFFFFFFFF ∧ regRead 0x10 (regWrite 0x10 0xFFFFFFFF State.reset) = 0 ∧
      regRead 0x00 (regWrite 0x00 0xFFFFFFFF State.reset) = 0 := by decide

theorem test_witness_HostWrite :
    (after (step { State.reset with cfg := smallCfg, host := [.write 0 1] })).map (·.fsm) = some .lineStart ∧
      (after (step { State.reset with host := [.write 1 7] })).map (·.cfg.width) = some 7 ∧
      (after (step { State.reset with host := [.write 0 2] })).map (·.fsm) = some .idle := by decide

/-- A host read of STATUS while BUSY (70_reset_and_hazards.md R430). -/
theorem test_witness_HostRead :
    (after (step { started smallCfg e1 with host := [.read 0x10] })).map (fun t => (t.readData, t.host)) =
      some (1, []) := by decide

/-- A code word that is read and one that is not there, in REGULAR; and the run loop. -/
theorem test_witness_StepRuns :
    let s := { started smallCfg e1 with fsm := .regular }
    codeContext s = some (.regular 2 32 8) ∧ readCode (.regular 2 32 8) s = .done (.reg 3 0) ⟨0xBFC04000, 25, 4, false⟩ ∧
      readCode (.regular 2 32 8) { s with brd := ⟨0, 0, 4, false⟩ } =
        .raised .invalidCompressedData ⟨0, 0, 4, false⟩ ∧
      readCode (.runScan 0) (atRun 3 0 [true]) = .done .run1 ⟨0, 0, 0, false⟩ := by decide

theorem test_witness_LineStart :
    (started smallCfg e1).line.cur.length = (started smallCfg e1).scan.width + 2 ∧
      (started smallCfg e1).line.prev.length = (started smallCfg e1).scan.width + 2 ∧
      1 ≤ (started smallCfg e1).scan.width ∧
      (after (step { atSample 1 2 3 4 [] .lineStart with x := 3 })).map (fun t => (t.lb.c0.row0, t.lb.c0.row1, t.x)) =
        some ([3, 1, 0, 0, 0], [0, 3, 2, 4, 4], 0) := by decide

/-- The three ways out of CLASSIFY. -/
theorem test_witness_Classify :
    (after (step { atSample 0 0 0 0 [] .classify with x := 3 })).map (·.fsm) = some .lineEnd ∧
      (after (step (atSample 0 0 0 0 [] .classify))).map (·.fsm) = some .runScan ∧
      (after (step (atSample 0 0 0 1 [] .classify))).map (·.fsm) = some .regular := by decide

/-- The next component's line, a line the sink accepts, a line it has no room for. -/
theorem test_witness_LineEnd :
    (after (step { started twoCfg [] with fsm := .lineEnd })).map (fun t => (t.comp, t.fsm)) =
        some (1, .lineStart) ∧
      (after (step { started twoCfg [] with fsm := .lineEnd, comp := 1 })).map
        (fun t => (t.lines, t.y, t.fsm, t.delivered)) =
        some (1, 1, .lineStart, [⟨0, [0, 0, 0, 0], 2, 2, .ok⟩]) ∧
      (after (step { started twoCfg [] with fsm := .lineEnd, comp := 1, sinkReplies := [.tooSmall] })).map
        (fun t => (t.lines, t.err, t.delivered)) =
        some (0, .destinationBufferTooSmall, [⟨0, [0, 0, 0, 0], 2, 2, .tooSmall⟩]) := by decide

theorem test_witness_DeliveredRow :
    (started smallCfg e1).scan.comps ≤ 4 ∧ (0 : Fin Config.compMax).val < (started smallCfg e1).scan.comps ∧
      2 < (started smallCfg e1).scan.width ∧ deliveredRow (atSample 1 2 3 4 [] .lineEnd) = [1, 0, 0] := by decide

/-- `0xFF` next; one more bit to it; no bit left; no `0xFF` after one more bit. -/
theorem test_witness_Padding :
    nextIsFF e1 6 ⟨0, 0, 4, false⟩ = true ∧ nextIsFF e1 6 ⟨0, 0, 3, false⟩ = false ∧
      readBit e1 6 ⟨0, 0, 3, false⟩ = .done 1 ⟨0, 7, 4, false⟩ ∧ nextIsFF e1 6 ⟨0, 7, 4, false⟩ = true ∧
      readBit e1 3 ⟨0, 0, 3, false⟩ = .raised .invalidCompressedData ⟨0, 0, 3, false⟩ ∧
      readBit [] 9 emptyReader = .done 0 ⟨0, 31, 4, false⟩ ∧ nextIsFF [] 9 ⟨0, 31, 4, false⟩ = false := by decide

/-- A step that writes BYTEPOS. -/
theorem test_witness_BytePositionWritten :
    (after (step { started smallCfg (inputOf [0xA0, 0xFF, 0xD9]) with
      fsm := .finalize, brd := ⟨0, 5, 1, false⟩ })).map (·.bytepos) = some 1 ∧
      (started smallCfg (inputOf [0xA0, 0xFF, 0xD9])).bytepos = 0 := by decide

/-- A refused START, then a host read and a write of a configuration register. -/
theorem test_witness_ErrorIsSticky :
    let s := { State.reset with phase := .error, fsm := .error, err := .parameterValueNotSupported }
    s.fsm.phase = .error ∧ (after (step { s with host := [.read 0x10] })).map (·.readData) = some 0x303 ∧
      (after (step { s with host := [.write 0 2] })).map (·.err) = some .parameterValueNotSupported := by decide

/-- A byte of a running scan's range, the byte after the range, and any byte of a block that waits. -/
theorem test_witness_StepAlwaysCompletes :
    (after (step { started smallCfg e1 with host := [.supply 5 0] })).isNone = true ∧
      (after (step { started smallCfg e1 with host := [.supply 6 1] })).map (·.input.read 6) = some 1 ∧
      (after (step { State.reset with host := [.supply 0 1] })).map (·.input) = some [(0, 1)] := by decide

theorem test_witness_PowerOn :
    (after (step { started smallCfg e1 with host := [.powerOn] })).map (fun t => (t.phase, t.cfg.width, t.input.wf)) =
      some (.idle, 0, true) := by decide

/-- Where `withFetchWord` puts a word, the next step runs it: a stuffed pair that ends a run, a START, a run bit. -/
theorem test_withFetchWord :
    (after (step (State.reset.withFetchWord 16 0xFF00))).map (fun t => (t.fsm, t.brd.pos)) = some (.classify, 2) ∧
      (after (step (State.reset.withFetchWord 16 0xFF80))).map (·.err) = some .invalidCompressedData ∧
      (after (step (State.reset.withFetchWord 8 1))).map (·.fsm) = some .classify ∧
      (after (step (State.reset.withFetchWord 8 0))).map (·.fsm) = some .runInterrupt ∧
      (after (step (State.reset.withFetchWord 32 1))).map (·.err) = some .parameterValueNotSupported := by decide

end Sys2Proof.Tests
end

section
/-! # What a transition of the block can do

`BlockMove` lists the outcomes of one transition of the controller (45_scan_control.md R345) and `RunMove` those of one
code word inside RUN_SCAN (44_run_mode.md R301), each with what the transition knows; `blockStep_move` ties them to the
machine. The proofs about every step split on these lists. -/

namespace Sys2Proof.Machine

/-! ## The only code a read raises -/

/-- A read that raises, raises `invalid_compressed_data`. -/
def Read.RaisesInvalid {α : Type} (m : Read α) : Prop :=
  ∀ code r, m = .raised code r → code = .invalidCompressedData

@[simp] theorem Read.raisesInvalid_done {α : Type} (a : α) (r : BitReader) : (Read.done a r).RaisesInvalid := by
  simp [Read.RaisesInvalid]

theorem Read.RaisesInvalid.andThen {α β : Type} {m : Read α} {f : α → BitReader → Read β} (hm : m.RaisesInvalid)
    (hf : ∀ a r, (f a r).RaisesInvalid) : (m.andThen f).RaisesInvalid := by
  intro code r h
  rcases Read.andThen_eq_raised h with h | ⟨a, r', -, h⟩
  · exact hm code r h
  · exact hf a r' code r h

theorem refill_raisesInvalid (mem : Memory) (len : Nat) (r : BitReader) : (refill mem len r).RaisesInvalid := by
  intro code r' h
  obtain ⟨_, -, ⟨-, h'⟩ | ⟨-, h'⟩⟩ := refill_cases mem len r
  · cases h'.symm.trans h; rfl
  · cases h'.symm.trans h

theorem readValue_raisesInvalid (mem : Memory) (len k : Nat) (r : BitReader) :
    (readValue mem len k r).RaisesInvalid := by
  intro code r' h
  rcases readValue_cases mem len k r with ⟨-, h'⟩ | ⟨-, _, -, -, h'⟩ | ⟨-, -, _, h', -⟩
  · cases h'.symm.trans h
  · cases h'.symm.trans h
  · cases h'.symm.trans h; rfl

theorem peekByte_raisesInvalid (mem : Memory) (len : Nat) (r : BitReader) : (peekByte mem len r).RaisesInvalid := by
  unfold peekByte
  split
  · exact (refill_raisesInvalid mem len r).andThen fun _ _ => Read.raisesInvalid_done _ _
  · exact Read.raisesInvalid_done _ _

theorem readHighBitsLoop_raisesInvalid (mem : Memory) (len turns q : Nat) (r : BitReader) :
    (readHighBitsLoop mem len turns q r).RaisesInvalid := by
  induction turns generalizing q r with
  | zero => simp [readHighBitsLoop, Read.RaisesInvalid, eq_comm]
  | succ turns ih =>
    refine (readValue_raisesInvalid mem len 1 r).andThen fun bit r' => ?_
    split
    · exact Read.raisesInvalid_done _ _
    · exact ih _ _

theorem readCodeWord_raisesInvalid (mem : Memory) (len k limit qbpp : Nat) (short escape : Nat → Nat → Instr)
    (r : BitReader) : (readCodeWord mem len k limit qbpp short escape r).RaisesInvalid := by
  refine (readHighBitsLoop_raisesInvalid mem len _ 0 r).andThen fun q r' => ?_
  split <;> exact (readValue_raisesInvalid mem len _ r').andThen fun _ _ => Read.raisesInvalid_done _ _

theorem readRegular_raisesInvalid (mem : Memory) (len k limit qbpp : Nat) (r : BitReader) :
    (readRegular mem len k limit qbpp r).RaisesInvalid := by
  unfold readRegular
  split
  · refine (peekByte_raisesInvalid mem len r).andThen fun v r' => ?_
    split
    · exact Read.raisesInvalid_done _ _
    · exact readCodeWord_raisesInvalid _ _ _ _ _ _ _ _
  · exact readCodeWord_raisesInvalid _ _ _ _ _ _ _ _

theorem readRun_raisesInvalid (mem : Memory) (len j : Nat) (r : BitReader) : (readRun mem len j r).RaisesInvalid := by
  refine (readValue_raisesInvalid mem len 1 r).andThen fun bit r' => ?_
  split
  · exact Read.raisesInvalid_done _ _
  · exact (readValue_raisesInvalid mem len j r').andThen fun _ _ => Read.raisesInvalid_done _ _

theorem readCode_raisesInvalid (c : ParseCtx) (s : State) : (readCode c s).RaisesInvalid := by
  cases c with
  | regular k limit qbpp => exact readRegular_raisesInvalid _ _ _ _ _ _
  | runScan j => exact readRun_raisesInvalid _ _ _ _
  | runInterrupt k glimit qbpp => exact readCodeWord_raisesInvalid _ _ _ _ _ _ _ _
  | byteLevel => exact Read.raisesInvalid_done _ _
  | finalize => exact Read.raisesInvalid_done _ _
  | hostWrite reg => exact Read.raisesInvalid_done _ _

/-! ## The two lists -/

/-- The outcomes of one code word in RUN_SCAN (44_run_mode.md R301 to R306, R319). -/
inductive RunMove (s : State) : State → Prop
  /-- The bit reader raises, or the run goes past the end of the line. -/
  | raises (hf : s.fsm = .runScan) (r : BitReader) : RunMove s (raiseError .invalidCompressedData (s.setBrd r))
  /-- A 1 bit counts samples. -/
  | counts (hf : s.fsm = .runScan) (r : BitReader) (i : Fin 32) (n : Nat) :
      RunMove s (((s.setBrd r).setRunIdx i).setRunCnt n)
  /-- The run reaches the end of the line, by a 1 bit or by its tail. -/
  | fillsLine (hf : s.fsm = .runScan) (r : BitReader) (i : Fin 32) (n : Nat) (hn : n ≤ s.remaining) :
      RunMove s (((endRun n (s.setBrd r)).setRunIdx i).setFsm .classify)
  /-- A 0 bit stops the run inside the line. -/
  | stopsShort (hf : s.fsm = .runScan) (r : BitReader) (n : Nat) (hn : s.x + n < s.scan.width) :
      RunMove s ((endRun n (s.setBrd r)).setFsm .runInterrupt)

/-- The outcomes of one transition of the controller (45_scan_control.md R345). -/
inductive BlockMove (s : State) : State → Prop
  | waits (hf : s.fsm = .idle ∨ s.fsm = .done ∨ s.fsm = .error) : BlockMove s s
  | lineStarts (hf : s.fsm = .lineStart) : BlockMove s (lineStart s)
  | lineIsFull (hf : s.fsm = .classify) (hx : s.x = s.scan.width) : BlockMove s (s.setFsm .lineEnd)
  | entersMode (hf : s.fsm = .classify) (hx : s.x ≠ s.scan.width) (f : Fsm) (hm : f = .runScan ∨ f = .regular) :
      BlockMove s (s.setFsm f)
  | nextComponent (hf : s.fsm = .lineEnd) (hc : s.comp.val + 1 < s.scan.comps) :
      BlockMove s { s with comp := s.comp + 1, fsm := .lineStart }
  | lineAccepted (hf : s.fsm = .lineEnd) : BlockMove s (nextLine (callSink s))
  | lineRefused (hf : s.fsm = .lineEnd) : BlockMove s (raiseError .destinationBufferTooSmall (callSink s))
  /-- The bit reader, the padding check, or a bound of the sample raises. -/
  | raises (hf : s.fsm = .regular ∨ s.fsm = .runInterrupt ∨ s.fsm = .finalize) (code : ErrCode) (r : BitReader)
      (hc : code = .tooMuchCompressedData ∨ code = .invalidCompressedData) : BlockMove s (raiseError code (s.setBrd r))
  | regularSample (hf : s.fsm = .regular) (r : BitReader) (e : Int)
      (hfit : regularSumsFit s.scan.near s.regularCtx e = true) : BlockMove s (regularWrite e (s.setBrd r))
  | interruptionSample (hf : s.fsm = .runInterrupt) (r : BitReader) (em : Nat) (e : Int)
      (hfit : riSum s.riType s.riCtx em < Config.accLimit) : BlockMove s (riWrite em e (s.setBrd r))
  | finishes (hf : s.fsm = .finalize) (r : BitReader) : BlockMove s (finishScan (s.setBrd r))
  | run (t : State) (hf : s.fsm = .runScan) (ht : Relation.ReflTransGen RunMove (s.setRunCnt 0) t) : BlockMove s t

/-! ## The machine makes these moves -/

theorem classify_move {s : State} (hf : s.fsm = .classify) : BlockMove s (classify s) := by
  unfold classify
  split
  · exact .lineIsFull hf ‹_›
  · split
    · exact .entersMode hf ‹_› _ (.inl rfl)
    · exact .entersMode hf ‹_› _ (.inr rfl)

theorem lineEnd_move {s : State} (hf : s.fsm = .lineEnd) : BlockMove s (lineEnd s) := by
  unfold lineEnd
  split
  · exact .nextComponent hf ‹_›
  · split
    · exact .lineAccepted hf
    · exact .lineRefused hf

theorem regularStep_move {s : State} (hf : s.fsm = .regular) (merr : Nat) (r : BitReader) :
    BlockMove s (regularStep merr (s.setBrd r)) := by
  rcases regularStep_cases merr (s.setBrd r) with ⟨e, -, -, hfit, h⟩ | h <;> rw [h]
  · exact .regularSample hf r e hfit
  · exact .raises (.inl hf) _ r (.inr rfl)

theorem riStep_move {s : State} (hf : s.fsm = .runInterrupt) (em : Nat) (r : BitReader) :
    BlockMove s (riStep em (s.setBrd r)) := by
  rcases riStep_cases em (s.setBrd r) with ⟨e, -, -, hfit, h⟩ | h <;> rw [h]
  · exact .interruptionSample hf r em e hfit
  · exact .raises (.inr (.inl hf)) _ r (.inr rfl)

theorem execPad_move {s t : State} {n : Nat} {r : BitReader} (hf : s.fsm = .finalize)
    (h : execPad n (s.setBrd r) = .next t) : BlockMove s t := by
  rcases execPad_cases n (s.setBrd r) with ⟨r', -, h'⟩ | ⟨code, r', -, hc, h'⟩ <;>
    rw [h', Host.Outcome.next.injEq] at h <;> subst h
  · exact .finishes hf r'
  · exact .raises (.inr (.inr hf)) code r' hc

/-- A code word outside RUN_SCAN. -/
theorem runCode_move {s t : State} {c : ParseCtx} (hc : codeContext s = some c) (hf : s.fsm ≠ .runScan)
    (h : runCode exec c s = .next t) : BlockMove s t := by
  have hfsm : (s.fsm = .regular ∧ ∃ k limit qbpp, c = .regular k limit qbpp) ∨
      (s.fsm = .runInterrupt ∧ ∃ k limit qbpp, c = .runInterrupt k limit qbpp) ∨
      (s.fsm = .finalize ∧ c = .finalize) := by
    unfold codeContext at hc
    split at hc <;> simp_all [eq_comm]
  rcases runCode_cases h with ⟨i, r, hi, h⟩ | ⟨code, r, hi, rfl⟩
  · rcases hfsm with ⟨hf, k, limit, qbpp, rfl⟩ | ⟨hf, k, limit, qbpp, rfl⟩ | ⟨hf, rfl⟩
    · rcases readRegular_form hi with ⟨q, x, rfl⟩ | ⟨q, v, rfl⟩ <;> cases h <;> exact regularStep_move hf _ r
    · rcases readCodeWord_form hi with ⟨q, x, rfl⟩ | ⟨q, v, rfl⟩ <;> cases h <;> exact riStep_move hf _ r
    · cases hi
      exact execPad_move (n := s.brd.valid) hf h
  · exact .raises (by tauto) code r (.inr (readCode_raisesInvalid c s _ _ hi))

/-- A code word in RUN_SCAN. -/
theorem runCode_runMove {s t : State} (hf : s.fsm = .runScan) (h : runCode exec (.runScan s.j) s = .next t) :
    RunMove s t := by
  rcases runCode_cases h with ⟨i, r, hi, h⟩ | ⟨code, r, hi, rfl⟩
  · rcases readRun_form hi with rfl | ⟨n, rfl⟩
    · rcases execRun1_cases (s.setBrd r) with ⟨-, h'⟩ | ⟨-, h'⟩ <;> cases h.symm.trans h'
      · exact .fillsLine hf r _ s.remaining le_rfl
      · exact .counts hf r _ _
    · rcases execRun0_cases n (s.setBrd r) with ⟨-, h'⟩ | ⟨-, hn, h'⟩ | ⟨hn, -, h'⟩ <;> cases h.symm.trans h'
      · exact .raises hf r
      · exact .stopsShort hf r _ hn
      · exact .fillsLine hf r _ _ hn
  · rw [readCode_raisesInvalid _ s _ _ hi]
    exact .raises hf r

theorem runScanLoop_runMoves (turns : Nat) {s t : State} (hf : s.fsm = .runScan)
    (h : runScanLoop exec turns s = .next t) : Relation.ReflTransGen RunMove s t := by
  induction turns generalizing s with
  | zero => cases h; exact .refl
  | succ turns ih =>
    simp only [runScanLoop] at h
    split at h
    · rename_i u hu
      have hmove := runCode_runMove hf hu
      split at h
      · exact .head hmove (ih ‹_› h)
      · cases h; exact .single hmove
    · exact absurd h (by simp_all)

/-- One transition of the block is one of the moves of the list. -/
theorem blockStep_move {s t : State} (h : blockStep exec s = .next t) : BlockMove s t := by
  rcases blockStep_cases h with ⟨hf, rfl⟩ | ⟨hf, rfl⟩ | ⟨hf, rfl⟩ | ⟨hf, rfl⟩ | ⟨hf, h⟩ | ⟨hf, c, hc, h⟩
  · exact .waits hf
  · exact .lineStarts hf
  · exact classify_move hf
  · exact lineEnd_move hf
  · exact .run t hf (runScanLoop_runMoves _ hf h)
  · exact runCode_move hc hf h

end Sys2Proof.Machine
end

section
/-! # What every step keeps

`busy_step_keeps` is the step rule for a property of a running scan: it follows from START and the moves of the block
alone. The invariants of contexts, rows, position and latched constants are four uses of it. -/

namespace Sys2Proof.Machine

/-! ## Running scans -/

/-- What every code word of a run keeps, the whole run keeps. -/
theorem runMoves_keep {Q : State → Prop} (hQ : ∀ u v, RunMove u v → Q u → Q v) {s t : State}
    (h : Relation.ReflTransGen RunMove s t) (hs : Q s) : Q t := by
  induction h with
  | refl => exact hs
  | tail _ hmove ih => exact hQ _ _ hmove ih

theorem RunMove.phase {s t : State} (h : RunMove s t) : t.phase = s.phase ∨ t.phase = .error := by
  cases h with
  | raises => exact .inr rfl
  | counts => exact .inl rfl
  | fillsLine => exact .inl rfl
  | stopsShort => exact .inl rfl

/-- The block leaves BYTEPOS alone and takes no scan to DONE, except that FINALIZE does both at once
(10_state.md R40). -/
theorem BlockMove.phase_bytepos {s t : State} (h : BlockMove s t) :
    (t.bytepos = s.bytepos ∧ (t.phase = s.phase ∨ t.phase = .error)) ∨
      (s.fsm = .finalize ∧ t.phase = .done ∧ t.bytepos = BitVec.ofNat 32 (currentBytePosition t.input t.brd)) := by
  cases h with
  | waits => exact .inl ⟨rfl, .inl rfl⟩
  | lineStarts => exact .inl ⟨rfl, .inl rfl⟩
  | lineIsFull => exact .inl ⟨rfl, .inl rfl⟩
  | entersMode => exact .inl ⟨rfl, .inl rfl⟩
  | nextComponent => exact .inl ⟨rfl, .inl rfl⟩
  | lineAccepted => exact .inl ⟨rfl, .inl rfl⟩
  | lineRefused => exact .inl ⟨rfl, .inr rfl⟩
  | raises => exact .inl ⟨rfl, .inr rfl⟩
  | regularSample => exact .inl ⟨rfl, .inl rfl⟩
  | interruptionSample => exact .inl ⟨rfl, .inl rfl⟩
  | finishes hf => exact .inr ⟨hf, rfl, rfl⟩
  | run t hf ht =>
    refine .inl (runMoves_keep (Q := fun u => u.bytepos = s.bytepos ∧ (u.phase = s.phase ∨ u.phase = .error))
      (fun u v huv ⟨hb, hp⟩ => ⟨?_, ?_⟩) ht ⟨rfl, .inl rfl⟩)
    · cases huv <;> exact hb
    · rcases huv.phase with h | h
      · rwa [h]
      · exact .inr h

/-- Only START makes the block BUSY. -/
theorem BlockMove.busy_of_busy {s t : State} (h : BlockMove s t) (ht : t.phase = .busy) : s.phase = .busy := by
  rcases h.phase_bytepos with ⟨-, hp | hp⟩ | ⟨-, hp, -⟩
  · exact hp ▸ ht
  · cases ht.symm.trans hp
  · cases ht.symm.trans hp

/-- A property of running scans that does not look at the world outside the block or at the configuration holds after
every step if START establishes it and the moves of the block keep it. -/
theorem busy_step_keeps {Q : State → Prop}
    (hworld : ∀ (s : State) cfg input host readData, Q s →
      Q { s with cfg := cfg, input := input, host := host, readData := readData })
    (hstart : ∀ s : State, (latch s.cfg).legal = true → Q (initScan (latchScan s)))
    (hmove : ∀ s t : State, BlockMove s t → t.phase = .busy → Q s → Q t)
    {s t : State} (hs : s.phase = .busy → Q s) (h : step s = .next t) (ht : t.phase = .busy) : Q t := by
  rcases step_cases h with ⟨num, v, rest, -, ⟨-, h⟩ | rfl⟩ | ⟨num, rest, -, rfl⟩ | ⟨i, b, rest, -, -, rfl⟩ |
    ⟨rest, -, rfl⟩ | ⟨-, h⟩
  · rcases execCtrlStart_cases s.popHost with ⟨-, h'⟩ | ⟨-, hl, h'⟩ | ⟨-, -, h'⟩ <;> cases h.symm.trans h'
    · exact hworld s s.cfg s.input _ s.readData (hs ht)
    · exact hstart _ hl
    · cases ht
  · exact hworld s _ s.input _ s.readData (hs ht)
  · exact hworld s s.cfg s.input _ _ (hs ht)
  · exact hworld s s.cfg _ _ s.readData (hs ht)
  · cases ht
  · have hmv := blockStep_move h
    exact hmove _ _ hmv ht (hworld s s.cfg s.input _ s.readData (hs (hmv.busy_of_busy ht)))

/-! ## BYTEPOS -/

/-- Settles O48: the block writes BYTEPOS only in FINALIZE, and no host move but power-on writes it. -/
theorem bytePositionWrittenOnlyAtDone : Obligations.BytePositionWrittenOnlyAtDone := by
  intro s t h
  have unwritten {u : State} (hb : u.bytepos = s.bytepos) (hp : u.phase = s.phase ∨ u.phase ≠ .done) :
      (s.phase = .busy → u.phase = .done → u.bytepos = BitVec.ofNat 32 (currentBytePosition u.input u.brd)) ∧
        (u.bytepos ≠ s.bytepos → (s.fsm = .finalize ∧ u.phase = .done) ∨ s.host.head? = some .powerOn) :=
    ⟨fun hbusy hd => by simp_all, fun hne => absurd hb hne⟩
  rcases step_cases h with ⟨num, v, rest, -, ⟨-, h⟩ | rfl⟩ | ⟨num, rest, -, rfl⟩ | ⟨i, b, rest, -, -, rfl⟩ |
    ⟨rest, hh, rfl⟩ | ⟨-, h⟩
  · rcases execCtrlStart_cases s.popHost with ⟨-, h'⟩ | ⟨-, -, h'⟩ | ⟨-, -, h'⟩ <;> cases h.symm.trans h'
    · exact unwritten rfl (.inl rfl)
    · exact unwritten rfl (.inr (by simp [initScan]))
    · exact unwritten rfl (.inr (by simp))
  · exact unwritten rfl (.inl rfl)
  · exact unwritten rfl (.inl rfl)
  · exact unwritten rfl (.inl rfl)
  · exact ⟨fun _ hd => absurd hd (by simp [powerOnReset, State.reset]), fun _ => .inr (by rw [hh]; rfl)⟩
  · rcases (blockStep_move h).phase_bytepos with ⟨hb, hp | hp⟩ | ⟨hf, hd, hb⟩
    · exact unwritten hb (.inl hp)
    · exact unwritten hb (.inr (by simp [hp]))
    · exact ⟨fun _ _ => hb, fun _ => .inl ⟨hf, hd⟩⟩

/-! ## The latched constants and STATUS -/

theorem Scan.legal_iff (p : Scan) : p.legal = true ↔
    (1 ≤ p.width ∧ p.width ≤ 65535) ∧ (1 ≤ p.height ∧ p.height ≤ 65535) ∧ (2 ≤ p.p ∧ p.p ≤ 16) ∧
      (1 ≤ p.maxval ∧ p.maxval ≤ 2 ^ p.p - 1) ∧ p.near ≤ min 255 (p.maxval / 2) ∧
      (p.near + 1 ≤ p.t1 ∧ p.t1 ≤ p.maxval) ∧ (p.t1 ≤ p.t2 ∧ p.t2 ≤ p.maxval) ∧
      (p.t2 ≤ p.t3 ∧ p.t3 ≤ p.maxval) ∧ (3 ≤ p.reset ∧ p.reset ≤ max 255 p.maxval) ∧
      (1 ≤ p.comps ∧ p.comps ≤ 4) ∧ ((p.ilv = .none ∧ p.comps = 1) ∨ p.ilv = .line) := by
  simp only [Scan.legal, Bool.and_eq_true, decide_eq_true_eq, and_assoc, Config.widthMax, Config.heightMax,
    Config.compMax, or_comm]

/-- The scan constants stay those START has latched until the next START (10_state.md R38). -/
theorem BlockMove.scan {s t : State} (h : BlockMove s t) : t.scan = s.scan := by
  cases h with
  | run t hf ht =>
    exact runMoves_keep (Q := fun u => u.scan = s.scan) (fun u v huv hu => by cases huv <;> exact hu) ht rfl
  | _ => rfl

theorem latchedInv_step {s t : State} (hs : LatchedInv s) (h : step s = .next t) : LatchedInv t :=
  busy_step_keeps (Q := fun u => ∃ c : Cfg, u.scan = latch c ∧ (latch c).legal = true)
    (fun _ _ _ _ _ hQ => hQ) (fun s hl => ⟨s.cfg, rfl, hl⟩) (fun _ _ hm _ hQ => hm.scan ▸ hQ) hs h

/-- A scan that has a controller state of its own is BUSY and has no error. -/
theorem StatusInv.of_busy {s : State} (hs : StatusInv s) (hf : s.fsm.phase = .busy) :
    s.phase = .busy ∧ s.err = .none := by
  obtain ⟨hp, he⟩ := hs
  have hb := hp.trans hf
  refine ⟨hb, ?_⟩
  rcases he with ⟨he, -⟩ | ⟨-, he⟩
  · cases hb.symm.trans he
  · exact he

theorem statusInv_of_quiet {s : State} (hp : s.phase = s.fsm.phase) (hne : s.phase ≠ .error) (he : s.err = .none) :
    StatusInv s := ⟨hp, .inr ⟨hne, he⟩⟩

/-- A move between controller states of a running scan keeps STATUS. -/
theorem StatusInv.moved {s t : State} (hs : StatusInv s) (hf : s.fsm.phase = .busy) (hp : t.phase = s.phase)
    (he : t.err = s.err) (hf' : t.fsm.phase = .busy) : StatusInv t := by
  obtain ⟨hb, hn⟩ := hs.of_busy hf
  have ht := hp.trans hb
  exact statusInv_of_quiet (ht.trans hf'.symm) (by simp [ht]) (he.trans hn)

/-- An error of one of the codes 1 to 4 is a consistent STATUS (60_exceptions.md R381). -/
theorem statusInv_raiseError {code : ErrCode} (s : State) (hc : 1 ≤ code.number ∧ code.number ≤ 4) :
    StatusInv (raiseError code s) := ⟨rfl, .inl ⟨rfl, hc⟩⟩

theorem RunMove.statusInv {s t : State} (h : RunMove s t) (hs : StatusInv s) : StatusInv t := by
  cases h with
  | raises => exact statusInv_raiseError _ (by decide)
  | counts hf => exact hs.moved (by simp [hf, Fsm.phase]) rfl rfl (by simp [hf, Fsm.phase])
  | fillsLine hf => exact hs.moved (by simp [hf, Fsm.phase]) rfl rfl rfl
  | stopsShort hf => exact hs.moved (by simp [hf, Fsm.phase]) rfl rfl rfl

theorem nextLine_fsm_phase (s : State) : (nextLine s).fsm.phase = .busy := by
  unfold nextLine
  dsimp only
  split <;> rfl

theorem BlockMove.statusInv {s t : State} (h : BlockMove s t) (hs : StatusInv s) : StatusInv t := by
  cases h with
  | waits => exact hs
  | lineStarts hf => exact hs.moved (by simp [hf, Fsm.phase]) rfl rfl rfl
  | lineIsFull hf => exact hs.moved (by simp [hf, Fsm.phase]) rfl rfl rfl
  | entersMode hf hx f hm =>
    exact hs.moved (by simp [hf, Fsm.phase]) rfl rfl (by rcases hm with rfl | rfl <;> rfl)
  | nextComponent hf => exact hs.moved (by simp [hf, Fsm.phase]) rfl rfl rfl
  | lineAccepted hf => exact hs.moved (by simp [hf, Fsm.phase]) rfl rfl (nextLine_fsm_phase _)
  | lineRefused => exact statusInv_raiseError _ (by decide)
  | raises hf code r hc => exact statusInv_raiseError _ (by rcases hc with rfl | rfl <;> decide)
  | regularSample hf => exact hs.moved (by simp [hf, Fsm.phase]) rfl rfl rfl
  | interruptionSample hf => exact hs.moved (by simp [hf, Fsm.phase]) rfl rfl rfl
  | finishes hf r =>
    have hb := hs.of_busy (by simp [hf, Fsm.phase])
    exact statusInv_of_quiet rfl (by simp [finishScan]) hb.2
  | run t hf ht => exact runMoves_keep (fun _ _ h => h.statusInv) ht hs

theorem statusInv_step {s t : State} (hs : StatusInv s) (h : step s = .next t) : StatusInv t := by
  rcases step_cases h with ⟨num, v, rest, -, ⟨-, h⟩ | rfl⟩ | ⟨num, rest, -, rfl⟩ | ⟨i, b, rest, -, -, rfl⟩ |
    ⟨rest, -, rfl⟩ | ⟨-, h⟩
  · rcases execCtrlStart_cases s.popHost with ⟨-, h'⟩ | ⟨-, -, h'⟩ | ⟨-, -, h'⟩ <;> cases h.symm.trans h'
    · exact hs
    · exact statusInv_of_quiet rfl (by simp [initScan]) rfl
    · exact statusInv_raiseError _ (by decide)
  · exact hs
  · exact hs
  · exact hs
  · exact statusInv_of_quiet rfl (by simp [powerOnReset, State.reset]) rfl
  · exact (blockStep_move h).statusInv hs

/-- Settles O56: STATUS by the list of moves, the scan constants by `busy_step_keeps`. -/
theorem stepKeepsStatusAndConstants : Obligations.StepKeepsStatusAndConstants :=
  fun _ _ hs hl h => ⟨statusInv_step hs h, latchedInv_step hl h⟩

/-! ## Contexts -/

/-- A property of every context survives the write of one context that has it. -/
theorem forall_get_set {α : Type} {n : Nat} {P : α → Prop} (v : Vector α n) (i : Fin n) (a : α)
    (hv : ∀ j : Fin n, P (v.get j)) (ha : P a) (j : Fin n) : P ((v.set i.val a i.isLt).get j) := by
  have hj := hv j
  simp only [Vector.get_eq_getElem, Vector.getElem_set] at hj ⊢
  split
  · exact ha
  · exact hj

theorem biasCancel_bounds (b c : Int) (n : Nat) (hn : 1 ≤ n) (hc : -128 ≤ c ∧ c ≤ 127) :
    (-(n : Int) < (biasCancel b c n).1 ∧ (biasCancel b c n).1 ≤ 0) ∧
      (-128 ≤ (biasCancel b c n).2 ∧ (biasCancel b c n).2 ≤ 127) := by
  unfold biasCancel
  split_ifs <;> dsimp only <;> omega

/-- The renormalised N is legal and A is not larger (43_regular_mode.md R266). -/
theorem renormalise_bounds (reset a n : Nat) (b : Int) (hn : 1 ≤ n ∧ n ≤ reset) :
    (renormalise reset a b n).1 ≤ a ∧ 1 ≤ (renormalise reset a b n).2.2 ∧ (renormalise reset a b n).2.2 ≤ reset := by
  unfold renormalise
  split_ifs
  · simp only [Nat.shiftRight_eq_div_pow]; omega
  · dsimp only; omega

/-- A regular update whose sums fit keeps the bounds of its context (43_regular_mode.md R268). -/
theorem regCtxOk_updateRegular {p : Scan} {ctx : RegCtx} {e : Int} (hok : RegCtxOk p.reset ctx)
    (hfit : regularSumsFit p.near ctx e = true) : RegCtxOk p.reset (updateRegular p ctx e) := by
  obtain ⟨-, -, hc, hn⟩ := hok
  have hfitA : ctx.a + e.natAbs < Config.accLimit := by
    simp only [regularSumsFit, Bool.and_eq_true, decide_eq_true_eq] at hfit
    exact hfit.1
  obtain ⟨hA, hN1, hN2⟩ :=
    renormalise_bounds p.reset (ctx.a + e.natAbs) ctx.n (ctx.b + dequantize p.near e) hn
  obtain ⟨hB, hC⟩ := biasCancel_bounds (renormalise p.reset (ctx.a + e.natAbs) (ctx.b + dequantize p.near e) ctx.n).2.1
    ctx.c _ hN1 hc
  exact ⟨lt_of_le_of_lt hA hfitA, hB, hC, hN1, hN2⟩

/-- An interruption update whose sum fits keeps the bounds of its context (44_run_mode.md R317). -/
theorem riCtxOk_updateRi {reset : Nat} {t : Fin 2} {ctx : RiCtx} {em : Nat} {e : Int}
    (hok : RiCtxOk reset ctx) (hfit : riSum t ctx em < Config.accLimit) :
    RiCtxOk reset (updateRi reset t ctx em e) := by
  obtain ⟨-, hb, -, hn, hnn⟩ := hok
  have hinc : (if e < 0 then 1 else 0 : Nat) ≤ 1 := by split <;> decide
  unfold updateRi
  split_ifs <;> simp only [RiCtxOk, Nat.shiftRight_eq_div_pow] <;> omega

/-- The initial accumulator of a legal scan is far below `ACC_LIMIT` (42_traits_predictor.md R220). -/
theorem latch_a0_lt {c : Cfg} (hl : (latch c).legal = true) : (latch c).a0 < Config.accLimit := by
  obtain ⟨-, -, ⟨-, hp⟩, ⟨-, hm⟩, hnear, -⟩ := (Scan.legal_iff _).1 hl
  have hpow : 2 ^ (latch c).p ≤ 2 ^ 16 := Nat.pow_le_pow_right (by decide) hp
  have hrange : (latch c).range ≤ (latch c).maxval + 2 * (latch c).near + 1 :=
    Nat.succ_le_succ (Nat.div_le_self _ _)
  have ha0 : (latch c).a0 = max 2 (((latch c).range + 32) / 2 ^ 6) := by
    rw [← Nat.shiftRight_eq_div_pow]; rfl
  change _ < 16777216
  omega

/-- Every context keeps its bounds: what `ContextInv` says of a BUSY block. -/
def ContextsOk (s : State) : Prop :=
  (∀ q : Fin Config.nRegCtx, RegCtxOk s.scan.reset (s.ctxr.get q)) ∧
    ∀ t : Fin 2, RiCtxOk s.scan.reset (s.ctxi.get t)

theorem contextsOk_initScan {s : State} (hl : (latch s.cfg).legal = true) : ContextsOk (initScan (latchScan s)) := by
  obtain ⟨-, -, -, -, -, -, -, -, ⟨hr, -⟩, -⟩ := (Scan.legal_iff _).1 hl
  have hn : 1 ≤ (latch s.cfg).reset := le_trans (by decide) hr
  have ha := latch_a0_lt hl
  refine ⟨fun q => ?_, fun t => ?_⟩
  · have hq : (initScan (latchScan s)).ctxr.get q = ⟨(latch s.cfg).a0, 0, 0, 1⟩ := by simp [initScan]
    rw [hq]
    exact ⟨ha, ⟨by simp, le_rfl⟩, ⟨by simp, by simp⟩, le_rfl, hn⟩
  · have ht : (initScan (latchScan s)).ctxi.get t = ⟨(latch s.cfg).a0, 0, 1, 0⟩ := by simp [initScan]
    rw [ht]
    exact ⟨ha, rfl, le_rfl, hn, Nat.zero_lt_one⟩

theorem RunMove.contextsOk {s t : State} (h : RunMove s t) (hs : ContextsOk s) : ContextsOk t := by
  cases h <;> exact hs

theorem BlockMove.contextsOk {s t : State} (h : BlockMove s t) (hs : ContextsOk s) : ContextsOk t := by
  have ⟨hreg, hri⟩ := hs
  cases h with
  | regularSample hf r e hfit =>
    exact ⟨forall_get_set s.ctxr s.ctxNumber _ hreg (regCtxOk_updateRegular (hreg _) hfit), hri⟩
  | interruptionSample hf r em e hfit =>
    exact ⟨hreg, forall_get_set s.ctxi s.riType _ hri (riCtxOk_updateRi (hri _) hfit)⟩
  | run t hf ht => exact runMoves_keep (fun _ _ h => h.contextsOk) ht hs
  | _ => exact hs

/-- Settles O58: START sets every context within its bounds, a sample updates one context with sums that fit, and every
other move leaves the contexts alone. The legality of RESET is needed at START only. -/
theorem stepKeepsContextBounds : Obligations.StepKeepsContextBounds :=
  fun _ _ _ hs h => busy_step_keeps (Q := ContextsOk) (fun _ _ _ _ _ hQ => hQ) (fun _ => contextsOk_initScan)
    (fun _ _ hm _ => hm.contextsOk) hs h

/-! ## Rows of samples -/

theorem RowOk.set {p : Scan} {row : List Nat} (h : RowOk p row) (i : Nat) {v : Nat} (hv : v ≤ p.maxval) :
    RowOk p (row.set i v) := by
  refine ⟨by simpa using h.1, fun w hw => ?_⟩
  rcases List.mem_or_eq_of_mem_set hw with hw | rfl
  · exact h.2 w hw
  · exact hv

theorem RowOk.fillRow {p : Scan} {row : List Nat} (h : RowOk p row) (start n : Nat) {v : Nat} (hv : v ≤ p.maxval) :
    RowOk p (fillRow row start n v) := by
  induction n generalizing row start with
  | zero => exact h
  | succ n ih => exact ih (h.set start hv) (start + 1)

theorem RowOk.sampleAt_le {p : Scan} {row : List Nat} (h : RowOk p row) (i : Nat) : sampleAt row i ≤ p.maxval :=
  Machine.sampleAt_le row i _ h.2

theorem rowOk_zeroRow (p : Scan) : RowOk p (zeroRow p.width) := by
  simp +contextual [RowOk, zeroRow]

/-- The clamp of `Reconstruct` (43_regular_mode.md R270). -/
theorem reconstruct_toNat_le (p : Scan) (px e : Int) : (reconstruct p px e).toNat ≤ p.maxval := by
  unfold reconstruct clamp
  dsimp only
  omega

/-- Both rows of a line buffer are rows of samples in range. -/
def LineOk (p : Scan) (b : LineBuf) : Prop := RowOk p b.row0 ∧ RowOk p b.row1

theorem lineOk_iff {p : Scan} {b : LineBuf} : LineOk p b ↔ RowOk p b.cur ∧ RowOk p b.prev := b.rows_iff

theorem LineOk.setCur {p : Scan} {b : LineBuf} {row : List Nat} (hb : LineOk p b) (hrow : RowOk p row) :
    LineOk p (b.setCur row) :=
  lineOk_iff.2 (by simpa using ⟨hrow, (lineOk_iff.1 hb).2⟩)

theorem LineOk.setPrev {p : Scan} {b : LineBuf} {row : List Nat} (hb : LineOk p b) (hrow : RowOk p row) :
    LineOk p (b.setPrev row) :=
  lineOk_iff.2 (by simpa using ⟨(lineOk_iff.1 hb).1, hrow⟩)

/-- Every line buffer holds rows of samples in range: what `SampleInv` says of a BUSY block. -/
def SamplesOk (s : State) : Prop := ∀ c, LineOk s.scan (s.lb.get c)

theorem SamplesOk.setLine {s : State} (hs : SamplesOk s) {b : LineBuf} (hb : LineOk s.scan b) :
    ∀ c, LineOk s.scan ((s.lb.set s.comp b).get c) :=
  PerComp.forall_set s.lb s.comp b hs hb

theorem SamplesOk.writeSample {s : State} (hs : SamplesOk s) {v : Nat} (hv : v ≤ s.scan.maxval) :
    SamplesOk (s.writeSample v) :=
  hs.setLine ((hs s.comp).setCur ((lineOk_iff.1 (hs s.comp)).1.set _ hv))

theorem SamplesOk.endRun {s : State} (hs : SamplesOk s) (n : Nat) : SamplesOk (endRun n s) :=
  have hcur : RowOk s.scan s.line.cur := (lineOk_iff.1 (hs s.comp)).1
  hs.setLine ((hs s.comp).setCur (hcur.fillRow _ n (hcur.sampleAt_le s.x)))

theorem SamplesOk.lineStart {s : State} (hs : SamplesOk s) : SamplesOk (lineStart s) := by
  have hline : LineOk s.scan s.line := hs s.comp
  obtain ⟨hcur, hprev⟩ := lineOk_iff.1 hline
  have hb := hline.setCur (hcur.set 0 (hprev.sampleAt_le 1))
  have hprev' := (lineOk_iff.1 hb).2
  exact hs.setLine (hb.setPrev (hprev'.set _ (hprev'.sampleAt_le _)))

theorem SamplesOk.nextLine {s : State} (hs : SamplesOk s) : SamplesOk (nextLine s) := by
  intro c
  change LineOk s.scan ((s.lb.mapBelow s.scan.comps LineBuf.toggle).get c)
  rw [PerComp.get_mapBelow]
  split <;> exact hs c

theorem RunMove.samplesOk {s t : State} (h : RunMove s t) (hs : SamplesOk s) : SamplesOk t := by
  cases h with
  | raises => exact hs
  | counts => exact hs
  | fillsLine hf r i n => exact SamplesOk.endRun (s := s.setBrd r) hs n
  | stopsShort hf r n => exact SamplesOk.endRun (s := s.setBrd r) hs n

theorem BlockMove.samplesOk {s t : State} (h : BlockMove s t) (hs : SamplesOk s) : SamplesOk t := by
  cases h with
  | lineStarts => exact hs.lineStart
  | lineAccepted => exact SamplesOk.nextLine (s := callSink s) hs
  | regularSample hf r e => exact SamplesOk.writeSample (s := s) hs (reconstruct_toNat_le _ _ _)
  | interruptionSample hf r em e => exact SamplesOk.writeSample (s := s) hs (reconstruct_toNat_le _ _ _)
  | run t hf ht => exact runMoves_keep (fun _ _ h => h.samplesOk) ht hs
  | _ => exact hs

/-- Settles O59: START clears every row, and every write into a row is a clamped sample, a run value or a border, each
in range. -/
theorem stepKeepsSamplesInRange : Obligations.StepKeepsSamplesInRange := by
  intro s t hs h
  have hstart (s : State) : SamplesOk (initScan (latchScan s)) := fun c => by
    have hc : (initScan (latchScan s)).lb.get c =
      ⟨zeroRow (latch s.cfg).width, zeroRow (latch s.cfg).width, false⟩ := PerComp.get_same _ c
    rw [hc]
    exact ⟨rowOk_zeroRow _, rowOk_zeroRow _⟩
  exact busy_step_keeps (Q := SamplesOk) (fun _ _ _ _ _ hQ => hQ) (fun s _ => hstart s)
    (fun _ _ hm _ => hm.samplesOk) hs h

/-! ## The scan position -/

/-- The scan position lies inside the image, and LINES equals Y: what `PositionInv` says of a BUSY block. -/
def PositionOk (s : State) : Prop :=
  s.comp.val < s.scan.comps ∧ s.scan.comps ≤ Config.compMax ∧ s.scan.height ≤ Config.heightMax ∧
    s.x ≤ s.scan.width ∧ (s.fsm.decodesSample = true → s.x < s.scan.width) ∧
    s.lines.toNat = s.y ∧ (s.fsm ≠ .finalize → s.y < s.scan.height) ∧ (s.fsm = .finalize → s.y = s.scan.height)

theorem PositionOk.x_lt {s : State} (hs : PositionOk s) (hf : s.fsm.decodesSample = true) : s.x < s.scan.width := by
  obtain ⟨-, -, -, -, hx, -⟩ := hs
  exact hx hf

/-- A move inside line Y changes only X and the controller's state. -/
theorem PositionOk.moved {s t : State} (hs : PositionOk s) (hf : s.fsm ≠ .finalize) (hscan : t.scan = s.scan)
    (hcomp : t.comp.val < t.scan.comps) (hlines : t.lines = s.lines) (hy : t.y = s.y) (hf' : t.fsm ≠ .finalize)
    (hx : t.x ≤ t.scan.width) (hxd : t.fsm.decodesSample = true → t.x < t.scan.width) : PositionOk t := by
  obtain ⟨-, hcm, hh, -, -, hl, hlt, -⟩ := hs
  refine ⟨hcomp, hscan ▸ hcm, hscan ▸ hh, hx, hxd, ?_, fun _ => ?_, fun h => absurd h hf'⟩
  · rw [hlines, hy, hl]
  · rw [hy, hscan]; exact hlt hf

theorem positionOk_initScan {s : State} (hl : (latch s.cfg).legal = true) : PositionOk (initScan (latchScan s)) := by
  obtain ⟨⟨hw, -⟩, ⟨hh, hh'⟩, -, -, -, -, -, -, -, ⟨hc, hc'⟩, -⟩ := (Scan.legal_iff _).1 hl
  exact ⟨hc, hc', hh', Nat.zero_le _, nofun, rfl, fun _ => hh, nofun⟩

/-- After line Y, LINES has not wrapped, and Y reaches HEIGHT exactly in FINALIZE. -/
theorem PositionOk.nextLine {s : State} (hs : PositionOk s) (hf : s.fsm ≠ .finalize) : PositionOk (nextLine s) := by
  obtain ⟨hc, hcm, hh, hx, -, hl, hlt, -⟩ := hs
  have hy := hlt hf
  have hlines : (s.lines + 1).toNat = s.y + 1 := by
    have hh' : s.scan.height ≤ 65535 := hh
    have h1 : (1 : BitVec 17).toNat = 1 := rfl
    rw [BitVec.toNat_add, hl, h1]
    omega
  refine ⟨Nat.zero_lt_of_lt hc, hcm, hh, hx, ?_, hlines, ?_, ?_⟩ <;> simp only [Machine.nextLine] <;> split <;>
    simp [Fsm.decodesSample] <;> omega

theorem RunMove.positionOk {s t : State} (h : RunMove s t) (hs : PositionOk s) : PositionOk t := by
  have ⟨hc, _, _, hx, hxd, _⟩ := hs
  cases h with
  | raises hf => exact hs.moved (by simp [hf]) rfl hc rfl rfl (by simp) hx nofun
  | counts hf => exact hs.moved (by simp [hf]) rfl hc rfl rfl (by simp [hf]) hx hxd
  | fillsLine hf r i n hn =>
    have hx' : s.x + n ≤ s.scan.width := by unfold State.remaining at hn; omega
    exact hs.moved (by simp [hf]) rfl hc rfl rfl (by simp) hx' nofun
  | stopsShort hf r n hn =>
    exact hs.moved (by simp [hf]) rfl hc rfl rfl (by simp) (Nat.le_of_lt hn) (fun _ => hn)

theorem BlockMove.positionOk {s t : State} (h : BlockMove s t) (ht : t.phase = .busy) (hs : PositionOk s) :
    PositionOk t := by
  have ⟨hc, hcm, _, hx, hxd, _⟩ := hs
  cases h with
  | waits => exact hs
  | lineStarts hf => exact hs.moved (by simp [hf]) rfl hc rfl rfl (by simp [lineStart]) (Nat.zero_le _) nofun
  | lineIsFull hf => exact hs.moved (by simp [hf]) rfl hc rfl rfl (by simp) hx nofun
  | entersMode hf hne f hm =>
    have hx' : s.x < s.scan.width := Nat.lt_of_le_of_ne hx hne
    exact hs.moved (by simp [hf]) rfl hc rfl rfl (by rcases hm with rfl | rfl <;> simp) hx (fun _ => hx')
  | nextComponent hf hc' =>
    have hnext : (s.comp + 1).val = s.comp.val + 1 := by
      rw [Fin.val_add]
      exact Nat.mod_eq_of_lt (lt_of_lt_of_le hc' hcm)
    exact hs.moved (by simp [hf]) rfl (hnext ▸ hc') rfl rfl (by simp) hx nofun
  | lineAccepted hf => exact PositionOk.nextLine (s := callSink s) hs (by simp [hf])
  | lineRefused => cases ht
  | raises => cases ht
  | regularSample hf =>
    exact hs.moved (by simp [hf]) rfl hc rfl rfl (by simp [regularWrite]) (hs.x_lt (by simp [hf, Fsm.decodesSample]))
      nofun
  | interruptionSample hf =>
    exact hs.moved (by simp [hf]) rfl hc rfl rfl (by simp [riWrite]) (hs.x_lt (by simp [hf, Fsm.decodesSample]))
      nofun
  | finishes => cases ht
  | run t hf h => exact runMoves_keep (fun _ _ h => h.positionOk) h hs

/-- Settles O60: CLASSIFY enters a decoding state only short of the end of the line, and LINES and Y advance
together. -/
theorem stepKeepsPositionInImage : Obligations.StepKeepsPositionInImage :=
  fun _ _ hs h => busy_step_keeps (Q := PositionOk) (fun _ _ _ _ _ hQ => hQ) (fun _ => positionOk_initScan)
    (fun _ _ hm ht => hm.positionOk ht) hs h

/-! ## Every step completes -/

theorem runCode_next (c : ParseCtx) (s : State) : ∃ t, runCode exec c s = .next t := by
  unfold runCode
  split
  · exact exec_next _ _
  · exact ⟨_, rfl⟩

theorem runScanLoop_next (turns : Nat) (s : State) : ∃ t, runScanLoop exec turns s = .next t := by
  induction turns generalizing s with
  | zero => exact ⟨s, rfl⟩
  | succ turns ih =>
    obtain ⟨u, hu⟩ := runCode_next (.runScan s.j) s
    simp only [runScanLoop, hu]
    split
    · exact ih u
    · exact ⟨u, rfl⟩

theorem blockStep_next (s : State) : ∃ t, blockStep exec s = .next t := by
  unfold blockStep
  cases s.fsm with
  | runScan => exact runScanLoop_next _ _
  | regular => exact runCode_next _ _
  | runInterrupt => exact runCode_next _ _
  | finalize => exact runCode_next _ _
  | _ => exact ⟨_, rfl⟩

theorem hostWrite_next (num : Nat) (v : Word) (s : State) : ∃ t, hostWrite exec num v s = .next t := by
  unfold hostWrite
  split
  · exact exec_next _ _
  · exact ⟨_, rfl⟩

/-- Settles O51: every part of a step completes, and only `hostSupply` has a branch that faults. -/
theorem stepAlwaysCompletes : Obligations.StepAlwaysCompletes := by
  intro s
  refine ⟨fun hsupply => ?_, fun i b rest hh hb hi => ?_⟩
  · unfold step stepWith
    cases hh : s.host with
    | nil => exact blockStep_next s
    | cons m rest =>
      cases m with
      | letBlockRun => exact blockStep_next _
      | write num v => exact hostWrite_next _ _ _
      | read num => exact ⟨_, rfl⟩
      | supply i b => exact ⟨_, if_neg (hsupply i b rest hh)⟩
      | powerOn => exact ⟨_, rfl⟩
  · simp only [step, stepWith, hh]
    exact if_pos ⟨hb, hi⟩

end Sys2Proof.Machine
end

section
/-! # Registers, START, reset and the run bit -/

namespace Sys2Proof.Machine

/-! ## The configuration (10_state.md R32, R34) -/

theorem orDefault_bitVec {w : Nat} (v : BitVec w) (d : Nat) :
    orDefault v.toNat d = if v = 0 then d else v.toNat := by
  have hv : v.toNat = 0 ↔ v = 0 := by rw [← BitVec.toNat_inj]; simp
  simp only [orDefault, hv]

/-- Settles O25: every default is an `orDefault` of `latch`, and the orderings are clauses of `Scan.legal_iff`. -/
theorem zeroFieldsTakeDefaults : Obligations.ZeroFieldsTakeDefaults := by
  intro c
  refine ⟨orDefault_bitVec _ _, orDefault_bitVec _ _, orDefault_bitVec _ _, orDefault_bitVec _ _,
    orDefault_bitVec _ _, fun hl => ?_⟩
  obtain ⟨-, -, -, -, -, ⟨h1, -⟩, ⟨h12, -⟩, ⟨h23, h3⟩, -⟩ := (Scan.legal_iff _).1 hl
  exact ⟨h1, h12, h23, h3⟩

/-! ## START (10_state.md R36, R37, R57) -/

/-- Settles O37: the two branches of `execCtrlStart_cases` that do not refuse. -/
theorem startBeginsScan : Obligations.StartBeginsScan := by
  intro s
  rcases execCtrlStart_cases s with ⟨hb, h⟩ | ⟨hb, hl, h⟩ | ⟨hb, hl, -⟩
  · exact ⟨fun _ => h, fun hb' => absurd hb hb'⟩
  · exact ⟨fun hb' => absurd hb' hb, fun _ _ => h⟩
  · exact ⟨fun hb' => absurd hb' hb, fun _ hl' => by simp [hl] at hl'⟩

/-- Settles O38: outside the ranges of R32 the latched constants are not legal, and START takes its refusing branch. -/
theorem startRefusesIllegalConfiguration : Obligations.StartRefusesIllegalConfiguration := by
  intro s hb p hillegal
  rcases execCtrlStart_cases s with ⟨hb', -⟩ | ⟨-, hl, -⟩ | ⟨-, -, h⟩
  · exact absurd hb' hb
  · exact absurd ((Scan.legal_iff p).1 hl) hillegal
  · exact h

/-! ## The register map (10_state.md R32) -/

/-- The writable registers and their widths. -/
def cfgWidths : List (Nat × Nat) :=
  [(1, 16), (2, 16), (3, 5), (4, 16), (5, 8), (6, 16), (7, 16), (8, 16), (9, 16), (10, 3), (11, 2), (12, 32)]

/-- A write of a register that is not writable is ignored. -/
theorem regWrite_of_not_writable {num : Nat} (h : ∀ w, (num, w) ∉ cfgWidths) (v : Word) (s : State) :
    regWrite num v s = s := by
  have hnum : num ∉ cfgWidths.map Prod.fst := by simpa [List.mem_map] using h
  unfold regWrite cfgWrite
  split
  case h_13 => rfl
  all_goals exact absurd (by decide) hnum

/-- A writable register reads as the low bits of what was written. -/
theorem regRead_regWrite_self {num w : Nat} (h : (num, w) ∈ cfgWidths) (v : Word) (s : State) :
    (regRead num (regWrite num v s)).toNat = v.toNat % 2 ^ w := by
  simp only [cfgWidths, List.mem_cons, Prod.mk.injEq, List.not_mem_nil, or_false] at h
  rcases h with h | h | h | h | h | h | h | h | h | h | h | h <;> obtain ⟨rfl, rfl⟩ := h <;>
    simp [regRead, regWrite, cfgWrite] <;> omega

/-- A write changes what no other register reads. -/
theorem regRead_regWrite_of_ne {num other : Nat} (h : other ≠ num) (v : Word) (s : State) :
    regRead other (regWrite num v s) = regRead other s := by
  unfold regWrite cfgWrite
  split
  case h_13 => rfl
  all_goals
    unfold regRead
    split <;> simp_all

theorem regRead_of_not_listed {num : Nat} (h : num ∉ [1, 2, 3, 4, 5, 6, 7, 8, 9, 10, 11, 12, 16, 17, 18]) (s : State) :
    regRead num s = 0 := by
  unfold regRead
  split
  case h_16 => rfl
  all_goals exact absurd (by decide) h

/-- PHASE in bits 1..0, ERR in bits 15..8. -/
theorem regRead_status (s : State) : (regRead 16 s).toNat = s.phase.number + 256 * s.err.number := by
  have hp : s.phase.number < 4 := by cases s.phase <;> decide
  have he : s.err.number < 8 := by cases s.err <;> decide
  simp only [regRead, BitVec.toNat_ofNat]
  omega

theorem regRead_lines (s : State) : (regRead 18 s).toNat = s.lines.toNat := by
  simp only [regRead, BitVec.toNat_setWidth]
  omega

/-- Settles O39: one lemma for each clause of the register map, and the step of a read is `hostRead`. -/
theorem registerWritesReadBack : Obligations.RegisterWritesReadBack := by
  intro s num v
  refine ⟨fun w hw => regRead_regWrite_self hw v s, fun other hne => regRead_regWrite_of_ne hne v s,
    fun h => regWrite_of_not_writable h v s, fun h => regRead_of_not_listed h s, regRead_status s, rfl,
    regRead_lines s, fun rest hh => ?_⟩
  simp only [step, stepWith, hh, hostRead, State.popHost, List.tail_cons]
  rfl

/-! ## Host writes (30_encoding.md R126, 10_state.md R35) -/

theorem foldl_bitsMSB (n v acc : Nat) :
    (bitsMSB n v).foldl (fun acc b => 2 * acc + b.toNat) acc = acc * 2 ^ n + v % 2 ^ n := by
  induction n generalizing acc with
  | zero => simp [bitsMSB, Nat.mod_one]
  | succ n ih =>
    simp only [bitsMSB, List.foldl_cons, ih, Nat.mod_pow_succ, Nat.toNat_testBit]
    ring

/-- A field reads back from its bits, most significant first (00_scope.md R12). -/
theorem ofBitsMSB_bitsMSB (n v : Nat) : ofBitsMSB (bitsMSB n v) = v % 2 ^ n := by
  simpa [ofBitsMSB] using foldl_bitsMSB n v 0

theorem readField_bitsMSB (n v : Nat) (rest : List Bool) :
    readField n (bitsMSB n v ++ rest) = some (v % 2 ^ n, rest) := by
  simp [readField, Laws.length_bitsMSB, ofBitsMSB_bitsMSB]

/-- The decoder takes a host write for START exactly at register 0x00 with bit 0 set. -/
theorem decoded_hostWrite_word (num : Nat) (v : Word) :
    decoded (.hostWrite num) (bitsMSB 32 v.toNat) =
      if num = 0 ∧ v.toNat % 2 = 1 then some .ctrlStart else none := by
  have hfield : readField 32 (bitsMSB 32 v.toNat) = some (v.toNat, []) := by
    have h := readField_bitsMSB 32 v.toNat []
    rwa [List.append_nil, Nat.mod_eq_of_lt v.isLt] at h
  simp only [decoded, decode, hfield]
  by_cases h : num = 0 ∧ v.toNat % 2 = 1 <;> simp [h]

theorem getLsbD_zero_iff (v : Word) : v.getLsbD 0 = true ↔ v.toNat % 2 = 1 := by
  simp [BitVec.getLsbD, Nat.testBit_zero]

/-- Settles O40: `hostWrite` runs what `decoded_hostWrite_word` says the word is. -/
theorem hostWriteIsStoredOrStart : Obligations.HostWriteIsStoredOrStart := by
  intro s num v rest hh
  have hstep : step s = hostWrite exec num v { s with host := rest } := by
    simp only [step, stepWith, hh, State.popHost, List.tail_cons]
  rw [hstep]
  unfold hostWrite
  rw [decoded_hostWrite_word]
  refine ⟨fun hn hv => ?_, fun hor => ⟨?_, fun hn => by rw [hn]; rfl⟩⟩
  · rw [if_pos ⟨hn, (getLsbD_zero_iff v).1 hv⟩]
  · have hno : ¬ (num = 0 ∧ v.toNat % 2 = 1) := by
      rintro ⟨hn, hv⟩
      rcases hor with hne | hbit
      · exact hne hn
      · rw [(getLsbD_zero_iff v).2 hv] at hbit
        cases hbit
    rw [if_neg hno]
    rfl

/-! ## Power-on reset (10_state.md R56) -/

/-- After power-on every register reads 0, whatever the world outside the block holds. -/
theorem regRead_powerOnReset (num : Nat) (s : State) : regRead num (powerOnReset s) = 0 := by
  unfold regRead
  split <;> rfl

/-- Settles O53: the state after reset is that of a power-on with an empty world. -/
theorem resetRegistersReadZero : Obligations.ResetRegistersReadZero := by
  refine ⟨fun num => regRead_powerOnReset num State.reset, rfl, rfl, fun s rest hh => ?_⟩
  refine ⟨powerOnReset s.popHost, ?_, fun num => regRead_powerOnReset num _, rfl, rfl, rfl⟩
  simp only [step, stepWith, hh]

/-- Settles O54: the input is empty, STATUS is quiet, and every other part of `Inv` speaks of a BUSY block. -/
theorem resetIsSafe : Obligations.ResetIsSafe :=
  ⟨reset_memory_wf, statusInv_of_quiet rfl (by decide) rfl, nofun, nofun, nofun, nofun, nofun⟩

/-! ## RUN1 (44_run_mode.md R301, R302, R304) -/

theorem advanceRunIdx_val (i : Fin 32) : (advanceRunIdx i).val = min 31 (i.val + 1) := by
  unfold advanceRunIdx
  split
  · change i.val + 1 = _
    omega
  · omega

theorem run1Count_eq (s : State) :
    s.run1Count = min (2 ^ jOf (s.runIdx.get s.comp)) (s.scan.width - s.x - s.runCnt) := by
  simp only [State.run1Count, State.remaining, State.j, Nat.one_shiftLeft]

/-- RUNIDX advances exactly when the line has room for a full `2^J` samples (44_run_mode.md R302). -/
theorem runIdxAfter1_val (s : State) :
    s.runIdxAfter1.val = if 2 ^ jOf (s.runIdx.get s.comp) ≤ s.scan.width - s.x - s.runCnt
      then min 31 ((s.runIdx.get s.comp).val + 1) else (s.runIdx.get s.comp).val := by
  simp only [State.runIdxAfter1, run1Count_eq, State.j, Nat.one_shiftLeft, min_eq_left_iff, apply_ite Fin.val,
    advanceRunIdx_val]

/-- Settles O32: the table by evaluation, and the two outcomes of `execRun1_cases` with the count written out. -/
theorem runBitOneCounts : Obligations.RunBitOneCounts := by
  refine ⟨by decide, fun s => ⟨s.runIdxAfter1, runIdxAfter1_val s, ?_⟩⟩
  rw [← run1Count_eq]
  rcases execRun1_cases s with ⟨hend, h⟩ | ⟨hcount, h⟩
  · exact ⟨fun _ => by rw [hend]; exact h, fun hne => absurd hend hne⟩
  · exact ⟨fun he => absurd he hcount, fun _ => h⟩

end Sys2Proof.Machine
end

section
/-! # The input bytes and the world outside the block

The marker position as a search, reading the input after a supply, and what no instruction and no step writes. -/

namespace Sys2Proof.Machine

/-! ## The marker position (20_memory.md R88) -/

/-- The search passes over positions where no marker starts, and stops at a marker unless it has looked at all `n`. -/
theorem markerFrom_spec (mem : Memory) (len n i : Nat) :
    (∀ j, i ≤ j → j < markerFrom mem len n i → ¬ markerAt mem len j = true) ∧
      ((markerFrom mem len n i < i + n ∧ markerAt mem len (markerFrom mem len n i) = true) ∨
        markerFrom mem len n i = i + n) := by
  induction n generalizing i with
  | zero => exact ⟨fun j hij hj => absurd hj (Nat.not_lt.2 hij), .inr rfl⟩
  | succ n ih =>
    simp only [markerFrom]
    split
    · exact ⟨fun j hij hj => absurd hj (Nat.not_lt.2 hij), .inl ⟨by omega, ‹_›⟩⟩
    · rename_i hi
      obtain ⟨hbefore, hend⟩ := ih (i + 1)
      refine ⟨fun j hij hj => ?_, by rwa [Nat.add_assoc, Nat.add_comm 1 n] at hend⟩
      rcases Nat.eq_or_lt_of_le hij with rfl | hlt
      · exact hi
      · exact hbefore j hlt hj

/-- The search of a whole input, from position 0. -/
theorem markerPos_spec (mem : Memory) (len : Nat) :
    (∀ i, i < markerPos mem len → ¬ markerAt mem len i = true) ∧
      ((markerPos mem len < len ∧ markerAt mem len (markerPos mem len) = true) ∨ markerPos mem len = len) := by
  simpa [markerPos] using markerFrom_spec mem len len 0

/-- `markerAt` tests the condition of R88 at every position of the input. -/
theorem markerAt_iff (mem : Memory) {len i : Nat} (hi : i < len) :
    markerAt mem len i = true ↔
      mem.read i = 0xFF#8 ∧ (i = len - 1 ∨ (mem.read (i + 1)).getLsbD 7 = true) := by
  have hlast : i + 1 = len ↔ i = len - 1 := by omega
  simp [markerAt, hlast, BitVec.msb_eq_getLsbD_last]

theorem markerPos_le (mem : Memory) (len : Nat) : markerPos mem len ≤ len := by
  rcases (markerPos_spec mem len).2 with ⟨hlt, -⟩ | heq
  · exact hlt.le
  · exact heq.le

/-- Settles O4: the marker position ends the search of the whole input, which passes over no marker. -/
theorem markerPositionIsLeast : Obligations.MarkerPositionIsLeast := by
  intro mem len starts
  obtain ⟨hbefore, hend⟩ := markerPos_spec mem len
  have hnone (i : Nat) (hi : i < markerPos mem len) : i < len ∧ ¬ starts i := by
    have hlen : i < len := hi.trans_le (markerPos_le mem len)
    exact ⟨hlen, fun hs => hbefore i hi ((markerAt_iff mem hlen).2 hs)⟩
  refine ⟨hnone, ?_⟩
  rcases hend with ⟨hlt, hm⟩ | heq
  · exact .inl ⟨hlt, (markerAt_iff mem hlt).1 hm⟩
  · exact .inr ⟨heq, fun i hi => (hnone i (heq.symm ▸ hi)).2⟩

/-! ## Reading after a supply (20_memory.md R80) -/

/-- A supplied byte reads back. A supplied `0x00` takes its position off the list, and by the canonical form no second
entry for that position comes to light. -/
theorem Memory.read_write_self (m : Memory) (i : Nat) (b : Byte) (h : m.wf = true) : (m.write i b).read i = b := by
  induction m with
  | nil => by_cases hb : b = Memory.unlisted <;> simp [Memory.write, Memory.read, hb]
  | cons c rest ih =>
    obtain ⟨-, habove, hrest⟩ := (Memory.wf_cons c rest).1 h
    have hfree (hi : i ≤ c.1) : Memory.read rest i = Memory.unlisted :=
      Memory.read_of_above rest i fun d hd => hi.trans_lt (habove d hd)
    simp only [Memory.write]
    split_ifs with hlt heq hb hb
    · simpa [Memory.read, hlt.ne] using ih hrest
    · rw [hfree heq.ge, hb]
    · simp [Memory.read]
    · simp [Memory.read, heq, hfree (Nat.not_lt.1 hlt), hb]
    · simp [Memory.read]

/-- A supply changes what no other position reads as. -/
theorem Memory.read_write_of_ne (m : Memory) {i a : Nat} (b : Byte) (h : a ≠ i) :
    (m.write i b).read a = m.read a := by
  induction m with
  | nil => by_cases hb : b = Memory.unlisted <;> simp [Memory.write, Memory.read, hb, h.symm]
  | cons c rest ih =>
    simp only [Memory.write]
    split_ifs with hlt heq hb hb
    · simp [Memory.read, ih]
    · simp [Memory.read, heq, h.symm]
    · simp [Memory.read, heq, h.symm]
    · rfl
    · simp [Memory.read, h.symm]

/-! ## What an instruction leaves alone (20_memory.md R82; 10_state.md R35, R38, R40) -/

/-- A byte form or a code word moves the bit reader, the contexts, the row of the line and the controller. -/
def CodeFrame (s t : State) : Prop :=
  t = { s with
    phase := t.phase, err := t.err, brd := t.brd, ctxr := t.ctxr, ctxi := t.ctxi, runIdx := t.runIdx, lb := t.lb,
    fsm := t.fsm, x := t.x, runCnt := t.runCnt }

/-- The padding check moves the bit reader and the controller, and writes BYTEPOS. -/
def PadFrame (s t : State) : Prop :=
  t = { s with phase := t.phase, err := t.err, bytepos := t.bytepos, brd := t.brd, fsm := t.fsm }

/-- START also writes the scan constants and the place of the current line, and not BYTEPOS. -/
def StartFrame (s t : State) : Prop :=
  t = { s with
    phase := t.phase, err := t.err, lines := t.lines, scan := t.scan, brd := t.brd, ctxr := t.ctxr, ctxi := t.ctxi,
    runIdx := t.runIdx, lb := t.lb, fsm := t.fsm, comp := t.comp, y := t.y, x := t.x, runCnt := t.runCnt }

theorem execMark_frame (m : Option (BitVec 7)) {s t : State} (h : execMark m s = .next t) : CodeFrame s t := by
  unfold execMark at h
  split at h <;> cases h <;> rfl

theorem regularStep_frame (merr : Nat) (s : State) : CodeFrame s (regularStep merr s) := by
  rcases regularStep_cases merr s with ⟨e, -, -, -, h⟩ | h <;> rw [h] <;> rfl

theorem riStep_frame (em : Nat) (s : State) : CodeFrame s (riStep em s) := by
  rcases riStep_cases em s with ⟨e, -, -, -, h⟩ | h <;> rw [h] <;> rfl

theorem execRun1_frame {s t : State} (h : execRun1 s = .next t) : CodeFrame s t := by
  rcases execRun1_cases s with ⟨-, h'⟩ | ⟨-, h'⟩ <;> cases h.symm.trans h' <;> rfl

theorem execRun0_frame (n : Nat) {s t : State} (h : execRun0 n s = .next t) : CodeFrame s t := by
  rcases execRun0_cases n s with ⟨-, h'⟩ | ⟨-, -, h'⟩ | ⟨-, -, h'⟩ <;> cases h.symm.trans h' <;> rfl

theorem execPad_frame (n : Nat) {s t : State} (h : execPad n s = .next t) : PadFrame s t := by
  rcases execPad_cases n s with ⟨r, -, h'⟩ | ⟨code, r, -, -, h'⟩ <;> cases h.symm.trans h' <;> rfl

theorem execCtrlStart_frame {s t : State} (h : execCtrlStart s = .next t) : StartFrame s t := by
  rcases execCtrlStart_cases s with ⟨-, h'⟩ | ⟨-, -, h'⟩ | ⟨-, -, h'⟩ <;> cases h.symm.trans h' <;> rfl

/-- Every instruction keeps one of the three frames. -/
theorem exec_frame {i : Instr} {s t : State} (h : exec i s = .next t) :
    CodeFrame s t ∨ (∃ n, i = .pad n) ∧ PadFrame s t ∨ i = .ctrlStart ∧ StartFrame s t := by
  cases i with
  | plainByte b => cases h; exact .inl rfl
  | stuffedPair z => cases h; exact .inl rfl
  | mark m => exact .inl (execMark_frame m h)
  | reg q r => cases h; exact .inl (regularStep_frame _ s)
  | esc q v => cases h; exact .inl (regularStep_frame _ s)
  | run1 => exact .inl (execRun1_frame h)
  | run0 n => exact .inl (execRun0_frame n h)
  | ri q r => cases h; exact .inl (riStep_frame _ s)
  | riesc q v => cases h; exact .inl (riStep_frame _ s)
  | pad n => exact .inr (.inl ⟨⟨n, rfl⟩, execPad_frame n h⟩)
  | ctrlStart => exact .inr (.inr ⟨rfl, execCtrlStart_frame h⟩)

/-- Settles O47: no frame names a field of the outside world, only START's names the constants of the scan, and only
PAD's names BYTEPOS. -/
theorem instructionsLeaveTheWorldAlone : Obligations.InstructionsLeaveTheWorldAlone := by
  intro i s t h
  rcases exec_frame h with hf | ⟨⟨n, rfl⟩, hf⟩ | ⟨rfl, hf⟩ <;> rw [hf]
  · exact ⟨fun _ => rfl, rfl, rfl, rfl, rfl, rfl, fun _ => ⟨rfl, rfl, rfl, rfl⟩, fun _ => rfl⟩
  · exact ⟨fun _ => rfl, rfl, rfl, rfl, rfl, rfl, fun _ => ⟨rfl, rfl, rfl, rfl⟩, fun hpad => absurd rfl (hpad n)⟩
  · exact ⟨fun _ => rfl, rfl, rfl, rfl, rfl, rfl, fun hstart => absurd rfl hstart, fun _ => rfl⟩

/-! ## The supply is the only step that writes the input bytes -/

theorem BlockMove.input {s t : State} (h : BlockMove s t) : t.input = s.input := by
  cases h with
  | run t hf ht =>
    exact runMoves_keep (Q := fun u => u.input = s.input) (fun u v huv hu => by cases huv <;> exact hu) ht rfl
  | _ => rfl

/-- The host's supply is the only step that writes the input bytes. -/
theorem step_input {s t : State} (h : step s = .next t) :
    t.input = s.input ∨ ∃ (i : BitVec 32) (b : Byte), t.input = s.input.write i.toNat b := by
  rcases step_cases h with ⟨num, v, rest, -, ⟨-, h⟩ | rfl⟩ | ⟨num, rest, -, rfl⟩ | ⟨i, b, rest, -, -, rfl⟩ |
    ⟨rest, -, rfl⟩ | ⟨-, h⟩
  · rw [execCtrlStart_frame h]
    exact .inl rfl
  · exact .inl rfl
  · exact .inl rfl
  · exact .inr ⟨i, b, rfl⟩
  · exact .inl rfl
  · exact .inl (blockStep_move h).input

/-- The step that takes a pending supply which does not change a running scan (70_reset_and_hazards.md R431). -/
theorem step_supply {s : State} {i : BitVec 32} {b : Byte} {rest : List HostMove} (hh : s.host = .supply i b :: rest)
    (hfree : ¬ (s.phase = .busy ∧ i.toNat < s.scan.len)) :
    step s = .next (supplyByte i b { s with host := rest }) := by
  simp [step, stepWith, hostSupply, hh, hfree, State.popHost]

/-- Settles O55: no step but a supply writes the input bytes, and a supply is one `Memory.write`. -/
theorem memoryStaysCanonical : Obligations.MemoryStaysCanonical := by
  refine ⟨fun s t hs h => ?_, fun s i b rest => step_supply, fun s i b hs => ?_⟩
  · unfold MemoryInv at hs ⊢
    rcases step_input h with hin | ⟨i, b, hin⟩ <;> rw [hin]
    · exact hs
    · exact Memory.write_wf _ _ _ hs
  · exact ⟨Memory.read_write_self _ _ _ hs, fun a ha => Memory.read_write_of_ne _ _ ha⟩

end Sys2Proof.Machine
end

section
/-! # Code words as bits

Fields and unary quotients read back from their bits and are exactly those bits, and so is every form: the two
directions of 30_encoding.md R112 to R126. -/

namespace Sys2Proof.Machine

/-! ## Fields (00_scope.md R12) -/

theorem bitsMSB_mod_two_pow {n m : Nat} (h : n ≤ m) (v : Nat) : bitsMSB n (v % 2 ^ m) = bitsMSB n v := by
  induction n with
  | zero => rfl
  | succ n ih =>
    have hn : n < m := h
    simp [bitsMSB, ih hn.le, Nat.testBit_mod_two_pow, hn]

/-- A field of `a + b` bits is its `a` high bits and then its `b` low bits. -/
theorem bitsMSB_add (a b v : Nat) : bitsMSB (a + b) v = bitsMSB a (v >>> b) ++ bitsMSB b v := by
  induction a with
  | zero => simp [bitsMSB]
  | succ a ih => simp [Nat.succ_add, bitsMSB, ih, Nat.testBit_shiftRight, Nat.add_comm b]

/-- Every list of bits is the field of some value. -/
theorem exists_eq_bitsMSB (bits : List Bool) : ∃ v < 2 ^ bits.length, bits = bitsMSB bits.length v := by
  induction bits with
  | nil => exact ⟨0, by simp, rfl⟩
  | cons b bits ih =>
    obtain ⟨v, hv, hbits⟩ := ih
    have hb := b.toNat_le
    refine ⟨2 ^ bits.length * b.toNat + v, by rw [List.length_cons, Nat.pow_succ]; nlinarith, ?_⟩
    have hlow : bitsMSB bits.length (2 ^ bits.length * b.toNat + v) = bits := by
      rw [← bitsMSB_mod_two_pow le_rfl, Nat.mul_add_mod, bitsMSB_mod_two_pow le_rfl, ← hbits]
    rw [List.length_cons, bitsMSB, hlow, Nat.testBit_two_pow_mul_add _ hv]
    cases b <;> simp

/-- A field is its value, most significant bit first, and what follows. -/
theorem readField_eq_some_iff {k v : Nat} {bits rest : List Bool} :
    readField k bits = some (v, rest) ↔ v < 2 ^ k ∧ bits = bitsMSB k v ++ rest := by
  constructor
  · intro h
    unfold readField at h
    split at h
    · cases h
    · rename_i hlen
      obtain ⟨u, hu, htake⟩ := exists_eq_bitsMSB (bits.take k)
      rw [List.length_take, Nat.min_eq_left (Nat.not_lt.1 hlen)] at hu htake
      cases h
      rw [htake, ofBitsMSB_bitsMSB, Nat.mod_eq_of_lt hu, ← htake, List.take_append_drop]
      exact ⟨hu, rfl⟩
  · rintro ⟨hv, rfl⟩
    rw [readField_bitsMSB, Nat.mod_eq_of_lt hv]

theorem readField_eq_none_iff {k : Nat} {bits : List Bool} : readField k bits = none ↔ bits.length < k := by
  simp [readField]

/-! ## Unary quotients (30_encoding.md R116) -/

theorem readUnary_eq_some_iff {q : Nat} {bits rest : List Bool} :
    readUnary bits = some (q, rest) ↔ bits = List.replicate q false ++ true :: rest := by
  induction bits generalizing q with
  | nil => simp [readUnary]
  | cons b bits ih =>
    cases b with
    | true => cases q <;> simp [readUnary, List.replicate_succ]
    | false =>
      cases q with
      | zero => rcases h : readUnary bits with _ | ⟨q', rest'⟩ <;> simp [readUnary, h]
      | succ q =>
        rw [List.replicate_succ, List.cons_append, List.cons.injEq, ← ih]
        rcases h : readUnary bits with _ | ⟨q', rest'⟩ <;> simp [readUnary, h]

/-! ## Golomb code words (30_encoding.md R116, R117, R121) -/

/-- A Golomb code word is the short form below the threshold and the escape from it on, and nothing else. -/
theorem decodeGolomb_eq_ok_iff {k limit qbpp : Nat} {short escape : Nat → Nat → Instr} {bits rest : List Bool}
    {i : Instr} :
    decodeGolomb k limit qbpp short escape bits = .ok (i, rest) ↔
      (∃ q v, i = escape q v ∧ escThreshold limit qbpp ≤ q ∧ v < 2 ^ qbpp ∧
        bits = List.replicate q false ++ true :: (bitsMSB qbpp v ++ rest)) ∨
      ∃ q r, i = short q r ∧ q < escThreshold limit qbpp ∧ r < 2 ^ k ∧
        bits = List.replicate q false ++ true :: (bitsMSB k r ++ rest) := by
  constructor
  · intro h
    rcases hq : readUnary bits with _ | ⟨q, tail⟩
    · simp [decodeGolomb, hq] at h
    have hbits := readUnary_eq_some_iff.1 hq
    by_cases hthr : escThreshold limit qbpp ≤ q
    · rcases hfield : readField qbpp tail with _ | ⟨v, rest'⟩ <;>
        simp only [decodeGolomb, hq, hthr, hfield, if_true] at h <;> cases h
      obtain ⟨hv, rfl⟩ := readField_eq_some_iff.1 hfield
      exact .inl ⟨q, v, rfl, hthr, hv, hbits⟩
    · rcases hfield : readField k tail with _ | ⟨r, rest'⟩ <;>
        simp only [decodeGolomb, hq, hthr, hfield, if_false] at h <;> cases h
      obtain ⟨hr, rfl⟩ := readField_eq_some_iff.1 hfield
      exact .inr ⟨q, r, rfl, Nat.not_le.1 hthr, hr, hbits⟩
  · rintro (⟨q, v, rfl, hthr, hv, hbits⟩ | ⟨q, r, rfl, hthr, hr, hbits⟩)
    · simp [decodeGolomb, readUnary_eq_some_iff.2 hbits, hthr, readField_eq_some_iff.2 ⟨hv, rfl⟩]
    · simp [decodeGolomb, readUnary_eq_some_iff.2 hbits, Nat.not_le.2 hthr, readField_eq_some_iff.2 ⟨hr, rfl⟩]

/-! ## The byte level (30_encoding.md R112 to R114) -/

theorem bitsMSB_byte (b : Byte) : bitsMSB 8 b.toNat = b.msb :: bitsMSB 7 (b.setWidth 7).toNat := by
  rw [bitsMSB, BitVec.toNat_setWidth, bitsMSB_mod_two_pow le_rfl, BitVec.testBit_toNat, BitVec.msb_eq_getLsbD_last]

theorem bitsMSB_cons (b : Bool) (z : BitVec 7) : bitsMSB 8 (BitVec.cons b z).toNat = b :: bitsMSB 7 z.toNat := by
  rw [bitsMSB_byte, BitVec.msb_cons, BitVec.setWidth_cons]

theorem length_lt_or_exists_byte (bits : List Bool) :
    bits.length < 8 ∨ ∃ (b : Byte) (tail : List Bool), bits = bitsMSB 8 b.toNat ++ tail := by
  rcases h : readField 8 bits with _ | ⟨v, tail⟩
  · exact .inl (readField_eq_none_iff.1 h)
  · obtain ⟨hv, hbits⟩ := readField_eq_some_iff.1 h
    exact .inr ⟨BitVec.ofNat 8 v, tail, by rw [BitVec.toNat_ofNat, Nat.mod_eq_of_lt hv, hbits]⟩

theorem readField_byte (b : Byte) (tail : List Bool) :
    readField 8 (bitsMSB 8 b.toNat ++ tail) = some (b.toNat, tail) := by
  rw [readField_bitsMSB, Nat.mod_eq_of_lt b.isLt]

theorem decode_plainByte {b : Byte} (hb : b ≠ 0xFF#8) (tail : List Bool) :
    decode .byteLevel (bitsMSB 8 b.toNat ++ tail) = .ok (.plainByte b, tail) := by
  simp [decode, readField_byte, decodeByteForm, hb]

theorem decode_finalFF : decode .byteLevel (bitsMSB 8 (0xFF#8).toNat) = .ok (.mark none, []) := by decide

/-- After a `0xFF`, fewer than eight bits are no byte. -/
theorem decode_FF_of_short {tail : List Bool} (hne : tail ≠ []) (hlen : tail.length < 8) :
    decode .byteLevel (bitsMSB 8 (0xFF#8).toNat ++ tail) = .error .truncated := by
  simp only [decode, readField_byte]
  simp [decodeByteForm, hne, readField_eq_none_iff.2 hlen]

/-- After a `0xFF`, bit 7 of the next byte tells a marker from a stuffed pair. -/
theorem decode_FF_byte (b : Bool) (z : BitVec 7) (tail : List Bool) :
    decode .byteLevel (bitsMSB 8 (0xFF#8).toNat ++ b :: (bitsMSB 7 z.toNat ++ tail)) =
      .ok (if b then .mark (some z) else .stuffedPair z, tail) := by
  have hne : bitsMSB 8 (BitVec.cons b z).toNat ++ tail ≠ [] := by simp [bitsMSB]
  rw [← List.cons_append, ← bitsMSB_cons]
  simp only [decode, readField_byte, decodeByteForm, hne, BitVec.ofNat_toNat, BitVec.setWidth_eq, BitVec.msb_cons,
    BitVec.setWidth_cons, if_true, if_false]

/-! ## The decoder and the encoder -/

/-- The two forms that nothing follows: a `0xFF` that is the last input byte, and the padding. -/
def EndsInput (i : Instr) : Prop := i = .mark none ∨ ∃ n, i = .pad n

/-- In context `c` the decoder reads a form exactly when the bits are its encoding and what may follow it. -/
def DecodesExactly (c : ParseCtx) : Prop :=
  ∀ (bits : List Bool) (i : Instr) (rest : List Bool),
    decode c bits = .ok (i, rest) ↔ i.wf c = true ∧ bits = encode c i ++ rest ∧ (EndsInput i → rest = [])

theorem decodesExactly_regular (k limit qbpp : Nat) : DecodesExactly (.regular k limit qbpp) := by
  intro bits i rest
  simp only [decode, decodeGolomb_eq_ok_iff]
  cases i <;> simp [Instr.wf, EndsInput, encode, encode.remainderWidth, encode.escapeWidth, and_assoc]

theorem decodesExactly_runInterrupt (k glimit qbpp : Nat) : DecodesExactly (.runInterrupt k glimit qbpp) := by
  intro bits i rest
  simp only [decode, decodeGolomb_eq_ok_iff]
  cases i <;> simp [Instr.wf, EndsInput, encode, encode.remainderWidth, encode.escapeWidth, and_assoc]

theorem decode_runStop_eq_ok_iff {j : Nat} {bits rest : List Bool} {i : Instr} :
    decode (.runScan j) (false :: bits) = .ok (i, rest) ↔
      ∃ t, i = .run0 t ∧ t < 2 ^ j ∧ bits = bitsMSB j t ++ rest := by
  simp only [← readField_eq_some_iff]
  rcases hfield : readField j bits with _ | ⟨t, rest'⟩
  · simp [decode, hfield]
  · simp only [decode, hfield, Except.ok.injEq, Option.some.injEq, Prod.mk.injEq]
    exact ⟨fun ⟨hi, hrest⟩ => ⟨t, hi.symm, rfl, hrest⟩, fun ⟨_, hi, ht, hrest⟩ => ⟨ht ▸ hi.symm, hrest⟩⟩

theorem decodesExactly_runScan (j : Nat) : DecodesExactly (.runScan j) := by
  intro bits i rest
  rcases bits with _ | ⟨_ | _, bits⟩
  · cases i <;> simp [decode, Instr.wf, encode]
  · rw [decode_runStop_eq_ok_iff]
    cases i <;> simp [Instr.wf, EndsInput, encode, encode.tailWidth]
  · cases i <;> simp [decode, Instr.wf, EndsInput, encode, eq_comm]

theorem decode_finalize_eq_ok_iff {bits rest : List Bool} {i : Instr} :
    decode .finalize bits = .ok (i, rest) ↔ ∃ n, i = .pad n ∧ bits = List.replicate n false ∧ rest = [] := by
  constructor
  · intro h
    simp only [decode] at h
    split at h
    · rename_i hzero
      cases h
      exact ⟨bits.length, rfl, List.eq_replicate_iff.2 ⟨rfl, by simpa using hzero⟩, rfl⟩
    · cases h
  · rintro ⟨n, rfl, rfl, rfl⟩
    simp [decode]

theorem decodesExactly_finalize : DecodesExactly .finalize := by
  intro bits i rest
  rw [decode_finalize_eq_ok_iff]
  cases i with
  | pad n =>
    constructor
    · rintro ⟨m, hm, rfl, rfl⟩
      cases hm
      simp [Instr.wf, encode]
    · rintro ⟨-, hbits, hend⟩
      have hrest := hend (.inr ⟨n, rfl⟩)
      exact ⟨n, rfl, by simpa [encode, hrest] using hbits, hrest⟩
  | _ => simp [Instr.wf]

theorem decodesExactly_byteLevel : DecodesExactly .byteLevel := by
  intro bits i rest
  constructor
  · intro h
    rcases length_lt_or_exists_byte bits with hshort | ⟨b, tail, rfl⟩
    · simp [decode, readField_eq_none_iff.2 hshort] at h
    by_cases hb : b = 0xFF#8
    · subst hb
      by_cases hnil : tail = []
      · subst hnil
        rw [List.append_nil, decode_finalFF] at h
        cases h
        simp [Instr.wf, encode]
      · rcases length_lt_or_exists_byte tail with hshort | ⟨z, tail', rfl⟩
        · rw [decode_FF_of_short hnil hshort] at h
          cases h
        · rw [bitsMSB_byte z, List.cons_append] at h ⊢
          rw [decode_FF_byte] at h
          cases h
          cases z.msb <;> simp [Instr.wf, EndsInput, encode]
    · rw [decode_plainByte hb] at h
      cases h
      simp [Instr.wf, EndsInput, encode, hb]
  · rintro ⟨hwf, rfl, hend⟩
    cases i with
    | plainByte b => exact decode_plainByte (by simpa [Instr.wf] using hwf) rest
    | stuffedPair z => simpa [encode] using decode_FF_byte false z rest
    | mark m =>
      rcases m with _ | m
      · rw [hend (.inl rfl)]
        exact decode_finalFF
      · simpa [encode] using decode_FF_byte true m rest
    | _ => simp [Instr.wf] at hwf

/-- Every context below the host level decodes exactly. -/
theorem decodesExactly {c : ParseCtx} (hc : ∀ n, c ≠ .hostWrite n) : DecodesExactly c := by
  cases c with
  | byteLevel => exact decodesExactly_byteLevel
  | regular k limit qbpp => exact decodesExactly_regular k limit qbpp
  | runScan j => exact decodesExactly_runScan j
  | runInterrupt k glimit qbpp => exact decodesExactly_runInterrupt k glimit qbpp
  | finalize => exact decodesExactly_finalize
  | hostWrite n => exact absurd rfl (hc n)

/-- The word 1 in register 0x00 is START; its reserved bits, which the decoder ignores, are 0 (30_encoding.md R126). -/
theorem decode_encode_ctrlStart (c : ParseCtx) (rest : List Bool) :
    decode (.hostWrite 0) (encode c .ctrlStart ++ rest) = .ok (.ctrlStart, rest) := by
  simp only [encode, decode, readField_bitsMSB]
  simp

/-- Settles O1: below the host level by `decodesExactly`; a well-formed form of the host level is START. -/
theorem decodeOfEncodeIsIdentity : Obligations.DecodeOfEncodeIsIdentity := by
  intro c i rest hwf hend
  by_cases hc : ∀ n, c ≠ .hostWrite n
  · exact (decodesExactly hc _ i rest).2 ⟨hwf, rfl, hend⟩
  · push Not at hc
    obtain ⟨n, rfl⟩ := hc
    obtain ⟨rfl, rfl⟩ : i = .ctrlStart ∧ n = 0 := by cases i <;> simp_all [Instr.wf]
    exact decode_encode_ctrlStart _ rest

/-- Settles O2: the other direction of `decodesExactly`. -/
theorem decodedFormIsExactlyItsBits : Obligations.DecodedFormIsExactlyItsBits := by
  intro c bits i rest hc h
  obtain ⟨hwf, hbits, -⟩ := (decodesExactly hc bits i rest).1 h
  exact ⟨hwf, hbits⟩

/-- Settles O3: seven closed words, evaluated. -/
theorem writtenWordsDecode : Obligations.WrittenWordsDecode :=
  ⟨by decide, by decide, by decide, by decide, by decide, by decide, by decide⟩

end Sys2Proof.Machine
end

section
/-! # The bit reader takes its bits from the stream

What a reader holds and what it has still to load are the unconsumed bits of the stream (20_memory.md R90,
40_bitreader.md R150): a refill moves bits from the input into the cache, and a read operation takes them off the
front as the decoder's field readers do. -/

namespace Sys2Proof.Machine

/-! ## The cache as bits (10_state.md R42) -/

theorem bitsMSB_eq_map (n v : Nat) : bitsMSB n v = (List.range n).map fun i => v.testBit (n - 1 - i) := by
  refine List.ext_getElem (by simp [Laws.length_bitsMSB]) ?_
  induction n with
  | zero => intro i h; simp [bitsMSB] at h
  | succ n ih =>
    intro i hi hi'
    rcases i with _ | i
    · simp [bitsMSB]
    · have hin : i < n := by simpa using hi'
      simpa [bitsMSB, Nat.sub_sub, Nat.add_comm] using
        ih i (by simpa [Laws.length_bitsMSB] using hin) (by simpa using hin)

theorem bitsMSB_topBits {k : Nat} (hk : k ≤ 32) (r : BitReader) :
    bitsMSB k (topBits k r) = (List.range k).map r.cache.getMsbD := by
  rw [bitsMSB_eq_map]
  refine List.map_congr_left fun i hi => ?_
  have hik : i < k := List.mem_range.1 hi
  have hpos : 32 - k + (k - 1 - i) = 32 - 1 - i := by omega
  have h32 : i < 32 := by omega
  simp [topBits, BitVec.testBit_toNat, Config.cacheWidth, BitVec.getMsbD, hpos, h32]

theorem topBits_lt {k : Nat} (hk : k ≤ 32) (r : BitReader) : topBits k r < 2 ^ k := by
  have hsplit : 2 ^ k * 2 ^ (32 - k) = 2 ^ 32 := by rw [← Nat.pow_add]; congr 1; omega
  rw [topBits, BitVec.toNat_ushiftRight, Nat.shiftRight_eq_div_pow]
  exact Nat.div_lt_of_lt_mul (by rw [Nat.mul_comm, hsplit]; exact r.cache.isLt)

theorem topBits_shiftRight {k n : Nat} (h : k ≤ n) (hn : n ≤ 32) (r : BitReader) :
    topBits n r >>> (n - k) = topBits k r := by
  have hsum : 32 - n + (n - k) = 32 - k := by omega
  rw [topBits, topBits, BitVec.toNat_ushiftRight, BitVec.toNat_ushiftRight, ← Nat.shiftRight_add, hsum]

theorem length_cachedBits (r : BitReader) : (cachedBits r).length = r.valid := Laws.length_bitsMSB _ _

/-- The bits below the valid ones are 0. -/
theorem getMsbD_cache_of_valid_le {r : BitReader} (h : r.cache <<< r.valid = 0) {i : Nat} (hi : r.valid ≤ i) :
    r.cache.getMsbD i = false := by
  have hbit : (r.cache <<< r.valid).getMsbD (i - r.valid) = false := by rw [h]; simp
  simpa [BitVec.getMsbD_shiftLeft, Nat.add_sub_cancel' hi, Nat.sub_add_cancel hi] using hbit

/-- The next `k` bits are the top bits of the cache. -/
theorem cachedBits_eq_topBits_append_skip {k : Nat} {r : BitReader} (hk : k ≤ r.valid) (hv : r.valid ≤ 32) :
    cachedBits r = bitsMSB k (topBits k r) ++ cachedBits (skip k r) := by
  obtain ⟨n, hn⟩ := Nat.exists_eq_add_of_le hk
  have hskip : (skip k r).valid = n := by simp [hn]
  rw [cachedBits, cachedBits, hskip, bitsMSB_topBits hv, bitsMSB_topBits (by omega), bitsMSB_topBits (by omega), hn,
    List.range_add, List.map_append, List.map_map]
  congr 1
  refine List.map_congr_left fun i hi => ?_
  have := List.mem_range.1 hi
  simp [BitVec.getMsbD_shiftLeft, Nat.add_comm]

/-- Bit `i` of the cache after a load of `n` bits: the loaded ones stand behind the valid ones. -/
theorem getMsbD_loadBits {bits n : Nat} {f : Bool} {r : BitReader} (hroom : r.valid + n ≤ 32) (i : Nat) :
    (loadBits bits n f r).cache.getMsbD i =
      (r.cache.getMsbD i || (decide (i < r.valid + n) && bits.testBit (r.valid + n - 1 - i))) := by
  have hbit : (BitVec.ofNat 32 bits <<< (32 - r.valid - n)).getMsbD i =
      (decide (i < r.valid + n) && bits.testBit (r.valid + n - 1 - i)) := by
    rw [BitVec.getMsbD_shiftLeft, BitVec.getMsbD, BitVec.getLsbD_ofNat]
    have hin : i + (32 - r.valid - n) < 32 ↔ i < r.valid + n := by omega
    have hpos : 32 - 1 - (i + (32 - r.valid - n)) = r.valid + n - 1 - i := by omega
    have h32 : r.valid + n - 1 - i < 32 := by omega
    simp only [hin, hpos, h32, decide_true, Bool.true_and]
  simp [loadBits, Config.cacheWidth, BitVec.getMsbD_or, hbit]

theorem cachedBits_loadBits {bits n : Nat} {f : Bool} {r : BitReader} (hz : r.cache <<< r.valid = 0)
    (hroom : r.valid + n ≤ 32) (hbits : bits < 2 ^ n) :
    cachedBits (loadBits bits n f r) = cachedBits r ++ bitsMSB n bits := by
  rw [cachedBits, cachedBits, loadBits_valid, bitsMSB_topBits hroom, bitsMSB_topBits (by omega), bitsMSB_eq_map,
    List.range_add, List.map_append, List.map_map]
  congr 1 <;> refine List.map_congr_left fun i hi => ?_ <;> have hi := List.mem_range.1 hi
  · have hhigh : bits.testBit (r.valid + n - 1 - i) = false :=
      Nat.testBit_lt_two_pow (hbits.trans_le (Nat.pow_le_pow_right (by decide) (by omega)))
    simp [getMsbD_loadBits hroom, hhigh]
  · have hpos : r.valid + n - 1 - (r.valid + i) = n - 1 - i := by omega
    simp [getMsbD_loadBits hroom, getMsbD_cache_of_valid_le hz, hpos, hi]

theorem cache_loadBits_shiftLeft {bits n : Nat} {f : Bool} {r : BitReader} (hz : r.cache <<< r.valid = 0)
    (hroom : r.valid + n ≤ 32) :
    (loadBits bits n f r).cache <<< (loadBits bits n f r).valid = 0 := by
  refine BitVec.eq_of_getMsbD_eq fun i _ => ?_
  have hbelow : r.cache.getMsbD (i + (r.valid + n)) = false := getMsbD_cache_of_valid_le hz (by omega)
  simp [BitVec.getMsbD_shiftLeft, getMsbD_loadBits hroom, hbelow]

/-! ## Loading the bytes of the stream (20_memory.md R89, 40_bitreader.md R151, R152) -/

section Loading

variable {mem : Memory} {len : Nat} {r : BitReader}

/-- `r'` is `r` with at least one more byte of the stream in its cache. -/
def Loads (mem : Memory) (len : Nat) (r r' : BitReader) : Prop :=
  ReaderOk mem len r' ∧ bitsLeft mem len r' = bitsLeft mem len r ∧ r.valid + 7 ≤ r'.valid

theorem Loads.trans {r₁ r₂ r₃ : BitReader} (h : Loads mem len r₁ r₂) (h' : Loads mem len r₂ r₃) :
    Loads mem len r₁ r₃ := by
  obtain ⟨-, hleft, hvalid⟩ := h
  obtain ⟨hok, hleft', hvalid'⟩ := h'
  exact ⟨hok, hleft'.trans hleft, by omega⟩

/-- Loading the contribution of the byte at POS. -/
theorem loads_loadBits (hr : ReaderOk mem len r) (hroom : r.valid ≤ 24) (hpos : r.pos < markerPos mem len)
    {bits n : Nat} {f : Bool} (hn : 7 ≤ n ∧ n ≤ 8) (hbits : bits < 2 ^ n)
    (hcontribution : contribution mem r.pos = bitsMSB n bits) (hf : f = true ↔ mem.read r.pos = 0xFF#8) :
    Loads mem len r (loadBits bits n f r) := by
  obtain ⟨-, hz, -, -⟩ := hr
  have hfit : r.valid + n ≤ 32 := by omega
  refine ⟨⟨hfit, cache_loadBits_shiftLeft hz hfit, hpos, by simpa using hf⟩, ?_, by simpa using hn.1⟩
  have hleft : markerPos mem len - r.pos = markerPos mem len - (r.pos + 1) + 1 := by omega
  rw [bitsLeft, bitsLeft, cachedBits_loadBits hz hfit hbits, loadBits_pos, hleft, contributions, hcontribution,
    List.append_assoc]

theorem ReaderOk.pos_le (hr : ReaderOk mem len r) : r.pos ≤ markerPos mem len := hr.2.2.1

theorem ReaderOk.valid_le (hr : ReaderOk mem len r) : r.valid ≤ 32 := hr.1

theorem ReaderOk.afterFF_iff (hr : ReaderOk mem len r) :
    r.afterFF = true ↔ 0 < r.pos ∧ mem.read (r.pos - 1) = 0xFF#8 := hr.2.2.2

/-- Between the bytes of a stuffed pair POS is in front of the second, which is no `0xFF`. -/
theorem ReaderOk.of_afterFF (hr : ReaderOk mem len r) (hff : r.afterFF = true) :
    r.pos < markerPos mem len ∧ (mem.read r.pos).msb = false := by
  obtain ⟨-, -, hle, hafter⟩ := hr
  obtain ⟨h0, hprev⟩ := hafter.1 hff
  obtain ⟨hbefore, hend⟩ := markerPos_spec mem len
  have hno := hbefore (r.pos - 1) (by omega)
  have hnext : r.pos ≠ len ∧ (mem.read r.pos).msb = false := by
    simpa [markerAt, hprev, Nat.sub_add_cancel h0] using hno
  refine ⟨lt_of_le_of_ne hle fun heq => ?_, hnext.2⟩
  rcases hend with ⟨-, hmark⟩ | hlen
  · have hff : mem.read r.pos = 0xFF#8 := by
      rw [heq]
      simp only [markerAt, Bool.and_eq_true, beq_iff_eq] at hmark
      exact hmark.1
    rw [hff] at hnext
    exact absurd hnext.2 (by decide)
  · exact hnext.1 (heq.trans hlen)

theorem ne_FF_of_msb {b : Byte} (h : b.msb = false) : b ≠ 0xFF#8 := by
  rintro rfl
  exact absurd h (by decide)

theorem follower_eq_cons (z : BitVec 7) : 0x80 ||| z.toNat = (BitVec.cons true z).toNat := by simp

/-- The byte that follows a stuffed `0xFF`. -/
theorem loads_loadFollower (hr : ReaderOk mem len r) (hroom : r.valid ≤ 24) (hff : r.afterFF = true) :
    Loads mem len r (loadFollower ((mem.read r.pos).setWidth 7) r) := by
  obtain ⟨hpos, hmsb⟩ := hr.of_afterFF hff
  have hafter := hr.afterFF_iff
  rw [loadFollower, if_pos ((hasRoom_iff r).2 hroom), follower_eq_cons]
  refine loads_loadBits hr hroom hpos (by decide) (BitVec.isLt _) ?_ (by simp [ne_FF_of_msb hmsb])
  rw [contribution, if_pos (hafter.1 hff), bitsMSB_cons, BitVec.toNat_setWidth, bitsMSB_mod_two_pow le_rfl]

theorem loads_loadPlain (hr : ReaderOk mem len r) (hroom : r.valid ≤ 24) (hpos : r.pos < markerPos mem len)
    (hff : r.afterFF = false) (hb : mem.read r.pos ≠ 0xFF#8) : Loads mem len r (loadPlain (mem.read r.pos) r) := by
  have hafter := hr.afterFF_iff
  rw [loadPlain, if_pos ((hasRoom_iff r).2 hroom)]
  refine loads_loadBits hr hroom hpos (by decide) (BitVec.isLt _) ?_ (by simp [hff, hb])
  rw [contribution, if_neg (by simp [← hafter, hff]), if_neg hb]

/-- A `0xFF` in front of the marker position, and the byte behind it if there is room. -/
theorem loads_loadStuffedPair (hr : ReaderOk mem len r) (hroom : r.valid ≤ 24) (hpos : r.pos < markerPos mem len)
    (hff : r.afterFF = false) (hb : mem.read r.pos = 0xFF#8) :
    Loads mem len r (loadStuffedPair ((mem.read (r.pos + 1)).setWidth 7) r) := by
  have hafter := hr.afterFF_iff
  have hroom' : r.hasRoom = true := (hasRoom_iff r).2 hroom
  have hfirst : Loads mem len r (loadStuffedFF r) := by
    rw [loadStuffedFF, if_pos hroom']
    refine loads_loadBits hr hroom hpos (by decide) (by decide) ?_ (by simp [hb])
    rw [contribution, if_neg (by simp [← hafter, hff]), if_pos hb]
    decide
  have hstate : (loadStuffedFF r).pos = r.pos + 1 ∧ (loadStuffedFF r).afterFF = true := by
    simp [loadStuffedFF, hroom']
  rw [loadStuffedPair, hff, if_neg (by decide), if_pos hroom']
  by_cases hsecond : (loadStuffedFF r).valid ≤ 24
  · have h := loads_loadFollower hfirst.1 hsecond hstate.2
    rw [hstate.1] at h
    exact hfirst.trans h
  · rw [loadFollower, if_neg (by rwa [hasRoom_iff])]
    exact hfirst

/-! ## Refilling (40_bitreader.md R151, R153) -/

theorem byteFormAt_marker (hff : r.afterFF = false) (hmark : markerAt mem len r.pos = true) :
    ∃ m, byteFormAt mem len r = .mark m := by
  simp only [markerAt, Bool.and_eq_true, beq_iff_eq, Bool.or_eq_true, decide_eq_true_eq] at hmark
  obtain ⟨hb, hend⟩ := hmark
  by_cases hnext : r.pos + 1 < len
  · have hmsb : (mem.read (r.pos + 1)).msb = true := hend.resolve_left hnext.ne
    exact ⟨some ((mem.read (r.pos + 1)).setWidth 7), by simp [byteFormAt, hff, decodeByteForm, hb, hnext, hmsb]⟩
  · exact ⟨none, by simp [byteFormAt, hff, decodeByteForm, hb, hnext]⟩

theorem byteFormAt_stuffed (hff : r.afterFF = false) (hlen : r.pos < len) (hmark : ¬ markerAt mem len r.pos = true)
    (hb : mem.read r.pos = 0xFF#8) : byteFormAt mem len r = .stuffedPair ((mem.read (r.pos + 1)).setWidth 7) := by
  obtain ⟨hne, hmsb⟩ : r.pos + 1 ≠ len ∧ (mem.read (r.pos + 1)).msb = false := by simpa [markerAt, hb] using hmark
  have hnext : r.pos + 1 < len := by omega
  simp [byteFormAt, hff, decodeByteForm, hb, hnext, hmsb]

theorem byteFormAt_plain (hff : r.afterFF = false) (hb : mem.read r.pos ≠ 0xFF#8) :
    byteFormAt mem len r = .plainByte (mem.read r.pos) := by
  simp [byteFormAt, hff, decodeByteForm, hb]

/-- A turn of the loop with room for a byte stands at the marker position and ends the loop, or loads what stands
there. -/
theorem refillLoop_turn (hr : ReaderOk mem len r) (hroom : r.valid ≤ 24) (hlen : r.pos < len) :
    (r.pos = markerPos mem len ∧ ∀ turns, refillLoop mem len (turns + 1) r = r) ∨
      ∃ r', Loads mem len r r' ∧ ∀ turns, refillLoop mem len (turns + 1) r = refillLoop mem len turns r' := by
  have hroom' : r.hasRoom = true := (hasRoom_iff r).2 hroom
  obtain ⟨hbefore, hend⟩ := markerPos_spec mem len
  cases hff : r.afterFF with
  | true =>
    have hform : byteFormAt mem len r = .stuffedPair ((mem.read r.pos).setWidth 7) := by simp [byteFormAt, hff]
    exact .inr ⟨_, loads_loadFollower hr hroom hff, fun turns => by
      simp [refillLoop, hroom', hlen, hform, loadStuffedPair, hff]⟩
  | false =>
    rcases Nat.eq_or_lt_of_le hr.pos_le with heq | hpos
    · have hmark : markerAt mem len r.pos = true := by
        rcases hend with ⟨-, hmark⟩ | hlen'
        · rwa [heq]
        · omega
      obtain ⟨m, hform⟩ := byteFormAt_marker hff hmark
      exact .inl ⟨heq, fun turns => by simp [refillLoop, hform]⟩
    · by_cases hb : mem.read r.pos = 0xFF#8
      · have hform := byteFormAt_stuffed hff hlen (hbefore _ hpos) hb
        exact .inr ⟨_, loads_loadStuffedPair hr hroom hpos hff hb, fun turns => by
          simp [refillLoop, hroom', hlen, hform]⟩
      · have hform : byteFormAt mem len r = _ := byteFormAt_plain hff hb
        exact .inr ⟨_, loads_loadPlain hr hroom hpos hff hb, fun turns => by
          simp [refillLoop, hroom', hlen, hform]⟩

/-- A refilled reader: the stream is what it was, and there are 25 bits or the marker position is reached. -/
def Refilled (mem : Memory) (len : Nat) (r r' : BitReader) : Prop :=
  ReaderOk mem len r' ∧ bitsLeft mem len r' = bitsLeft mem len r ∧ (25 ≤ r'.valid ∨ r'.pos = markerPos mem len)

/-- Seven bits a turn make the given turns enough. -/
theorem refilled_refillLoop (turns : Nat) (hr : ReaderOk mem len r) (hturns : 25 ≤ r.valid + 7 * turns) :
    Refilled mem len r (refillLoop mem len turns r) := by
  induction turns generalizing r with
  | zero => exact ⟨hr, rfl, .inl hturns⟩
  | succ turns ih =>
    by_cases hgo : r.valid ≤ 24 ∧ r.pos < len
    · obtain ⟨hroom, hlen⟩ := hgo
      rcases refillLoop_turn hr hroom hlen with ⟨hpos, hstop⟩ | ⟨r', ⟨hok, hleft, hvalid⟩, hnext⟩
      · rw [hstop]
        exact ⟨hr, rfl, .inr hpos⟩
      · obtain ⟨hok', hleft', hend⟩ := ih hok (by omega)
        rw [hnext]
        exact ⟨hok', hleft'.trans hleft, hend⟩
    · have hstop : refillLoop mem len (turns + 1) r = r := by
        simp only [refillLoop, Bool.and_eq_true, hasRoom_iff, decide_eq_true_eq, if_neg hgo]
      have hpos := hr.pos_le
      have hmarker := markerPos_le mem len
      rw [hstop]
      exact ⟨hr, rfl, by omega⟩

/-- At the marker position the reader holds all that is left of the stream. -/
theorem bitsLeft_of_pos (hpos : r.pos = markerPos mem len) : bitsLeft mem len r = cachedBits r := by
  simp [bitsLeft, hpos, contributions]

/-- A refilled reader with less than 25 bits holds all that is left of the stream. -/
theorem Refilled.length_bitsLeft {r' : BitReader} (h : Refilled mem len r r') (hshort : r'.valid < 25) :
    (bitsLeft mem len r).length = r'.valid := by
  obtain ⟨-, hleft, hend⟩ := h
  rw [← hleft, bitsLeft_of_pos (hend.resolve_left (by omega)), length_cachedBits]

theorem refilled_of_refill_done (hr : ReaderOk mem len r) {r' : BitReader} (h : refill mem len r = .done () r') :
    Refilled mem len r r' := by
  obtain ⟨_, rfl, ⟨-, h'⟩ | ⟨-, h'⟩⟩ := refill_cases mem len r
  · cases h'.symm.trans h
  · cases h'.symm.trans h
    exact refilled_refillLoop Config.cacheWidth hr (by change 25 ≤ r.valid + 7 * 32; omega)

/-- A refill raises only at the end of the stream (40_bitreader.md R151). -/
theorem bitsLeft_of_refill_raised (hr : ReaderOk mem len r) {code : ErrCode} {r' : BitReader}
    (h : refill mem len r = .raised code r') : bitsLeft mem len r = [] := by
  have hloop := refilled_refillLoop Config.cacheWidth hr (by change 25 ≤ r.valid + 7 * 32; omega)
  obtain ⟨_, rfl, ⟨hempty, -⟩ | ⟨-, h'⟩⟩ := refill_cases mem len r
  · exact List.length_eq_zero_iff.1 ((hloop.length_bitsLeft (by omega)).trans hempty)
  · cases h'.symm.trans h

/-! ## Taking bits off the front (40_bitreader.md R156, R161) -/

theorem ReaderOk.skip (hr : ReaderOk mem len r) {k : Nat} (hk : k ≤ r.valid) : ReaderOk mem len (skip k r) := by
  obtain ⟨hv, hz, hpos, hafter⟩ := hr
  refine ⟨(Nat.sub_le _ _).trans hv, ?_, hpos, hafter⟩
  rw [skip_cache, skip_valid, ← BitVec.shiftLeft_add, Nat.add_sub_cancel' hk, hz]

theorem bitsLeft_eq_topBits_append_skip (hr : ReaderOk mem len r) {k : Nat} (hk : k ≤ r.valid) :
    bitsLeft mem len r = bitsMSB k (topBits k r) ++ bitsLeft mem len (skip k r) := by
  rw [bitsLeft, bitsLeft, cachedBits_eq_topBits_append_skip hk hr.valid_le, skip_pos, List.append_assoc]

end Loading

/-! ## Reading as the decoder reads -/

/-- A read that ends as the parse `p` of the unconsumed bits does: with the same value, the reader left in front of the
bits `p` leaves, or in failure. -/
def ReadsAs {α : Type} (mem : Memory) (len : Nat) (m : Read α) (p : Except DecodeError (α × List Bool)) : Prop :=
  (∃ a r', m = .done a r' ∧ ReaderOk mem len r' ∧ p = .ok (a, bitsLeft mem len r')) ∨
    ∃ r', m = .raised .invalidCompressedData r' ∧ p = .error .truncated

/-- A field that is not there is a truncation (30_encoding.md R123). -/
def orTruncated {α : Type} (o : Option α) : Except DecodeError α := o.elim (.error .truncated) .ok

section Reading

variable {mem : Memory} {len : Nat} {r : BitReader}

theorem ReadsAs.done {α : Type} {a : α} (hr : ReaderOk mem len r) :
    ReadsAs mem len (.done a r) (.ok (a, bitsLeft mem len r)) := .inl ⟨a, r, rfl, hr, rfl⟩

/-- Two reads in a row are two parses in a row. -/
theorem ReadsAs.andThen {α β : Type} {m : Read α} {p : Except DecodeError (α × List Bool)} {f : α → BitReader → Read β}
    {g : α × List Bool → Except DecodeError (β × List Bool)} (hm : ReadsAs mem len m p)
    (hf : ∀ a r', ReaderOk mem len r' → ReadsAs mem len (f a r') (g (a, bitsLeft mem len r'))) :
    ReadsAs mem len (m.andThen f) (p.bind g) := by
  rcases hm with ⟨a, r', rfl, hok, rfl⟩ | ⟨r', rfl, rfl⟩
  · exact hf a r' hok
  · exact .inr ⟨r', rfl, rfl⟩

theorem readValue_readsAs (hr : ReaderOk mem len r) {k : Nat} (hk : k ≤ 24) :
    ReadsAs mem len (readValue mem len k r) (orTruncated (readField k (bitsLeft mem len r))) := by
  rcases readValue_cases mem len k r with ⟨rfl, h⟩ | ⟨-, r', hfrom, hvalid, h⟩ | ⟨hk0, -, r', h, hfrom⟩
  · have hfield : readField 0 (bitsLeft mem len r) = some (0, bitsLeft mem len r) :=
      readField_eq_some_iff.2 ⟨by decide, rfl⟩
    exact .inl ⟨0, r, h, hr, by rw [hfield]; rfl⟩
  · have hok : ReaderOk mem len r' ∧ bitsLeft mem len r' = bitsLeft mem len r := by
      rcases hfrom with rfl | hfrom
      · exact ⟨hr, rfl⟩
      · exact (refilled_of_refill_done hr hfrom).imp_right And.left
    have hfield : readField k (bitsLeft mem len r) = some (topBits k r', bitsLeft mem len (skip k r')) :=
      readField_eq_some_iff.2 ⟨topBits_lt (by omega) r', hok.2 ▸ bitsLeft_eq_topBits_append_skip hok.1 hvalid⟩
    exact .inl ⟨_, _, h, hok.1.skip hvalid, by rw [hfield]; rfl⟩
  · have hshort : (bitsLeft mem len r).length < k := by
      rcases hfrom with hfrom | ⟨hfrom, hvalid⟩
      · rw [bitsLeft_of_refill_raised hr hfrom]
        exact Nat.pos_of_ne_zero hk0
      · rwa [(refilled_of_refill_done hr hfrom).length_bitsLeft (by omega)]
    exact .inr ⟨r', h, by rw [readField_eq_none_iff.2 hshort]; rfl⟩

/-! ## Unary quotients (40_bitreader.md R159) -/

theorem readField_one (b : Bool) (bits : List Bool) : readField 1 (b :: bits) = some (b.toNat, bits) :=
  readField_eq_some_iff.2 ⟨b.toNat_lt, by cases b <;> rfl⟩

theorem readUnary_false (bits : List Bool) :
    readUnary (false :: bits) = (readUnary bits).map fun x => (x.1 + 1, x.2) := by
  rcases h : readUnary bits with _ | ⟨q, rest⟩ <;> simp [readUnary, h]

theorem length_contributions_le (mem : Memory) (n i : Nat) : (contributions mem n i).length ≤ 8 * n := by
  induction n generalizing i with
  | zero => simp [contributions]
  | succ n ih =>
    have hone : (contribution mem i).length ≤ 8 := by
      unfold contribution
      split_ifs <;> simp [Laws.length_bitsMSB]
    have := ih (i + 1)
    rw [contributions, List.length_append]
    omega

theorem length_bitsLeft_le_bitBound (r : BitReader) : (bitsLeft mem len r).length ≤ bitBound len r := by
  have hle := length_contributions_le mem (markerPos mem len - r.pos) r.pos
  have hmarker := markerPos_le mem len
  rw [bitsLeft, List.length_append, length_cachedBits, bitBound]
  omega

/-- With more turns than bits the loop counts the zeros of the stream on from `q`. -/
theorem readHighBitsLoop_readsAs (turns : Nat) {q : Nat} (hr : ReaderOk mem len r)
    (hturns : (bitsLeft mem len r).length < turns) :
    ReadsAs mem len (readHighBitsLoop mem len turns q r)
      (orTruncated ((readUnary (bitsLeft mem len r)).map fun x => (q + x.1, x.2))) := by
  induction turns generalizing q r with
  | zero => exact absurd hturns (Nat.not_lt_zero _)
  | succ turns ih =>
    have hbit := readValue_readsAs hr (k := 1) (by decide)
    rw [readHighBitsLoop, readBit]
    rcases hbits : bitsLeft mem len r with _ | ⟨b, bits⟩ <;> rw [hbits] at hbit hturns
    · obtain ⟨_, _, -, -, hfield⟩ | ⟨r', h, -⟩ := hbit
      · cases hfield
      · exact .inr ⟨r', by rw [h]; rfl, rfl⟩
    · rw [readField_one] at hbit
      obtain ⟨_, r', h, hok, hfield⟩ | ⟨_, -, hfield⟩ := hbit <;> cases hfield
      rw [h]
      cases b with
      | true => exact .inl ⟨q, r', rfl, hok, rfl⟩
      | false =>
        have hrest := ih (q := q + 1) hok (by simpa using hturns)
        simpa [readUnary_false, Option.map_map, Function.comp_def, Nat.add_assoc, Nat.add_comm 1] using hrest

theorem readHighBits_readsAs (hr : ReaderOk mem len r) :
    ReadsAs mem len (readHighBits mem len r) (orTruncated (readUnary (bitsLeft mem len r))) := by
  simpa [readHighBits] using readHighBitsLoop_readsAs (q := 0) _ hr (Nat.lt_succ_of_le (length_bitsLeft_le_bitBound r))

end Reading

end Sys2Proof.Machine
end

section
/-! # What the block reads is what the decoder reads -/

namespace Sys2Proof.Machine

/-! ## The decoder as a sequence of field readers (30_encoding.md R116, R117, R120) -/

theorem decodeGolomb_eq_bind (k limit qbpp : Nat) (short escape : Nat → Nat → Instr) (bits : List Bool) :
    decodeGolomb k limit qbpp short escape bits =
      (orTruncated (readUnary bits)).bind fun x =>
        if escThreshold limit qbpp ≤ x.1 then
          (orTruncated (readField qbpp x.2)).bind fun y => .ok (escape x.1 y.1, y.2)
        else (orTruncated (readField k x.2)).bind fun y => .ok (short x.1 y.1, y.2) := by
  rcases hq : readUnary bits with _ | ⟨q, tail⟩
  · simp only [decodeGolomb, hq]
    rfl
  · rcases hv : readField qbpp tail with _ | ⟨v, rest⟩ <;> rcases hr : readField k tail with _ | ⟨x, rest'⟩ <;>
      simp only [decodeGolomb, hq, hv, hr] <;> simp [orTruncated, Except.bind, hv, hr]

theorem decode_runScan_eq_bind (j : Nat) (bits : List Bool) :
    decode (.runScan j) bits =
      (orTruncated (readField 1 bits)).bind fun x =>
        if x.1 = 1 then .ok (.run1, x.2) else (orTruncated (readField j x.2)).bind fun y => .ok (.run0 y.1, y.2) := by
  rcases bits with _ | ⟨b, bits⟩
  · rfl
  · rw [readField_one]
    cases b with
    | true => rfl
    | false => rcases h : readField j bits with _ | ⟨t, rest⟩ <;> simp [decode, orTruncated, Except.bind, h]

section

variable {mem : Memory} {len : Nat} {r : BitReader}

theorem readCodeWord_readsAs (hr : ReaderOk mem len r) {k qbpp : Nat} (hk : k ≤ 24) (hqbpp : qbpp ≤ 24) (limit : Nat)
    (short escape : Nat → Nat → Instr) :
    ReadsAs mem len (readCodeWord mem len k limit qbpp short escape r)
      (decodeGolomb k limit qbpp short escape (bitsLeft mem len r)) := by
  rw [decodeGolomb_eq_bind]
  refine (readHighBits_readsAs hr).andThen fun q r' hr' => ?_
  dsimp only
  split
  · exact (readValue_readsAs hr' hqbpp).andThen fun v r'' hr'' => .done hr''
  · exact (readValue_readsAs hr' hk).andThen fun x r'' hr'' => .done hr''

theorem readRun_readsAs (hr : ReaderOk mem len r) {j : Nat} (hj : j ≤ 24) :
    ReadsAs mem len (readRun mem len j r) (decode (.runScan j) (bitsLeft mem len r)) := by
  rw [decode_runScan_eq_bind]
  refine (readValue_readsAs hr (k := 1) (by decide)).andThen fun bit r' hr' => ?_
  dsimp only
  split
  · exact .done hr'
  · exact (readValue_readsAs hr' hj).andThen fun t r'' hr'' => .done hr''

/-! ## The peek tables (41_golomb.md R205 to R207) -/

/-- Looking at a byte moves no bit of the stream, and fails only at its end (40_bitreader.md R158). -/
theorem peekByte_spec (hr : ReaderOk mem len r) :
    (∃ r', peekByte mem len r = .done (topBits 8 r') r' ∧ ReaderOk mem len r' ∧
      bitsLeft mem len r' = bitsLeft mem len r) ∨
    ∃ r', peekByte mem len r = .raised .invalidCompressedData r' ∧ bitsLeft mem len r = [] := by
  unfold peekByte
  split
  · rcases h : refill mem len r with ⟨⟨⟩, r'⟩ | ⟨code, r'⟩
    · obtain ⟨hok, hleft, -⟩ := refilled_of_refill_done hr h
      exact .inl ⟨r', rfl, hok, hleft⟩
    · obtain rfl := refill_raisesInvalid mem len r code r' h
      exact .inr ⟨r', rfl, bitsLeft_of_refill_raised hr h⟩
  · exact .inl ⟨r, rfl, hr, rfl⟩

/-- The leading zeros of a field end at its first 1. -/
theorem bitsMSB_leadingZeros {n v : Nat} (h : leadingZeros n v < n) :
    bitsMSB n v = List.replicate (leadingZeros n v) false ++ true :: bitsMSB (n - 1 - leadingZeros n v) v := by
  induction n with
  | zero => exact absurd h (Nat.not_lt_zero _)
  | succ n ih =>
    cases hbit : v.testBit n with
    | true => simp [bitsMSB, leadingZeros, hbit]
    | false =>
      have hlt : leadingZeros n v < n := by simpa [leadingZeros, hbit] using h
      have hsub : n - (leadingZeros n v + 1) = n - 1 - leadingZeros n v := by omega
      simp [bitsMSB, leadingZeros, hbit, List.replicate_succ, ih hlt, hsub]

/-- A value that holds a quotient above `k` bits of remainder gives both back. -/
theorem shiftLeft_or_fields {k m : Nat} (q : Nat) (hm : m < 2 ^ k) :
    (q <<< k ||| m) >>> k = q ∧ (q <<< k ||| m) % 2 ^ k = m := by
  rw [← Nat.shiftLeft_add_eq_or_of_lt hm, Nat.shiftLeft_eq, Nat.mul_comm, Nat.shiftRight_eq_div_pow, Nat.mul_add_mod,
    Nat.mod_eq_of_lt hm, Nat.mul_add_div (Nat.two_pow_pos k), Nat.div_eq_of_lt hm]
  exact ⟨rfl, rfl⟩

/-- An entry of a peek table that is no sentinel is the short code word at the front of the peeked byte, with its
quotient and remainder (41_golomb.md R206). -/
theorem glut_codeWord {k v : Nat} (h : (glut k v).1 ≠ 0) :
    ∃ q, (glut k v).1 = q + 1 + k ∧ q + 1 + k ≤ 8 ∧ (glut k v).2 >>> k = q ∧
      bitsMSB (q + 1 + k) (v >>> (8 - (q + 1 + k))) =
        List.replicate q false ++ true :: bitsMSB k ((glut k v).2 % 2 ^ k) := by
  have hfit : leadingZeros 8 v + 1 + k ≤ 8 := by
    by_contra hno
    simp [glut, hno] at h
  have hzeros := bitsMSB_leadingZeros (n := 8) (v := v) (by omega)
  simp only [glut, hfit, if_true]
  generalize leadingZeros 8 v = q at hfit hzeros
  obtain ⟨m, hm⟩ := Nat.exists_eq_add_of_le hfit
  obtain ⟨hq, hx⟩ := shiftLeft_or_fields q (Nat.mod_lt (v >>> m) (Nat.two_pow_pos k))
  have hrest : 8 - (q + 1 + k) = m ∧ 8 - 1 - q = k + m := by omega
  rw [hrest.2, bitsMSB_add k, hm, bitsMSB_add] at hzeros
  refine ⟨q, rfl, hfit, hrest.1 ▸ hq, List.append_cancel_right (bs := bitsMSB m v) ?_⟩
  rw [hrest.1, hx, bitsMSB_mod_two_pow le_rfl, hzeros, List.append_assoc, List.cons_append]

/-- A hit in the peek table is the code word the decoder reads, whose quotient is below every regular threshold. -/
theorem decode_of_glut_hit (hr : ReaderOk mem len r) {k limit qbpp : Nat} (hne : (glut k (topBits 8 r)).1 ≠ 0)
    (hvalid : (glut k (topBits 8 r)).1 ≤ r.valid) (hthreshold : 17 ≤ escThreshold limit qbpp) :
    decode (.regular k limit qbpp) (bitsLeft mem len r) =
      .ok (.reg ((glut k (topBits 8 r)).2 >>> k) ((glut k (topBits 8 r)).2 % 2 ^ k),
        bitsLeft mem len (skip (glut k (topBits 8 r)).1 r)) := by
  obtain ⟨q, hlen, h8, hq, hbits⟩ := glut_codeWord hne
  rw [topBits_shiftRight h8 (by decide)] at hbits
  rw [hlen] at hvalid
  refine decodeGolomb_eq_ok_iff.2 (.inr ⟨q, _, by rw [hq], by omega, Nat.mod_lt _ (Nat.two_pow_pos k), ?_⟩)
  rw [hlen, bitsLeft_eq_topBits_append_skip hr hvalid, hbits, List.append_assoc, List.cons_append]

theorem readRegular_readsAs (hr : ReaderOk mem len r) {k limit qbpp : Nat} (hk : k ≤ 24) (hqbpp : qbpp ≤ 24)
    (hthreshold : 17 ≤ escThreshold limit qbpp) :
    ReadsAs mem len (readRegular mem len k limit qbpp r)
      (decode (.regular k limit qbpp) (bitsLeft mem len r)) := by
  unfold readRegular
  split
  · rcases peekByte_spec hr with ⟨r', h, hr', hleft⟩ | ⟨r', h, hnil⟩ <;> rw [h]
    · rw [← hleft, Read.andThen_done]
      split
      · rename_i hhit
        obtain ⟨hne, hvalid⟩ := hhit
        exact .inl ⟨_, _, rfl, hr'.skip hvalid, decode_of_glut_hit hr' hne hvalid hthreshold⟩
      · exact readCodeWord_readsAs hr' hk hqbpp limit .reg .esc
    · rw [hnil]
      exact .inr ⟨r', rfl, rfl⟩
  · exact readCodeWord_readsAs hr hk hqbpp limit .reg .esc

end

/-- Settles O12: `ReadsAs` of each code word, its two ends being those of the statement. -/
theorem fetchAgreesWithDecoder : Obligations.FetchAgreesWithDecoder := by
  intro s c hr hc
  have hreads : ReadsAs s.input s.scan.len (readCode c s) (decode c (bitsLeft s.input s.scan.len s.brd)) := by
    cases c with
    | regular k limit qbpp =>
      obtain ⟨hk, hqbpp, hthreshold⟩ := hc
      exact readRegular_readsAs hr hk hqbpp hthreshold
    | runScan j => exact readRun_readsAs hr (le_trans hc (by decide))
    | runInterrupt k glimit qbpp =>
      obtain ⟨hk, hqbpp⟩ := hc
      exact readCodeWord_readsAs hr hk hqbpp glimit .ri .riesc
    | _ => exact hc.elim
  rcases hreads with ⟨i, r', h, hok, hdecode⟩ | ⟨r', h, hdecode⟩ <;> rw [h]
  · exact ⟨hok, hdecode⟩
  · exact ⟨rfl, hdecode⟩

end Sys2Proof.Machine
end

section
/-! # The context of the next code word fits the bit reader -/

namespace Sys2Proof.Machine

/-! ## The Golomb parameter (43_regular_mode.md R261) -/

theorem golombKLoop_le {n a m : Nat} (h : a ≤ n <<< m) (turns : Nat) {k : Nat} (hk : k ≤ m) :
    golombKLoop n a turns k ≤ m := by
  induction turns generalizing k with
  | zero => exact hk
  | succ turns ih =>
    simp only [golombKLoop]
    split
    · rename_i hlt
      have hne : k ≠ m := fun he => absurd h (by rw [← he]; exact Nat.not_le.2 hlt)
      exact ih (by omega)
    · exact hk

/-- No Golomb parameter exceeds one that is large enough. -/
theorem golombK_le {n a m : Nat} (h : a ≤ n * 2 ^ m) : golombK n a ≤ m :=
  golombKLoop_le (by rwa [Nat.shiftLeft_eq]) _ (Nat.zero_le m)

theorem RegCtxOk.golombK_le {reset : Nat} {ctx : RegCtx} (h : RegCtxOk reset ctx) : golombK ctx.n ctx.a ≤ 24 := by
  obtain ⟨ha, -, -, hn, -⟩ := h
  change ctx.a < 16777216 at ha
  exact Machine.golombK_le (by omega)

/-- `TEMP` adds at most half of N to A (44_run_mode.md R313), which the parameter 24 leaves room for. -/
theorem RiCtxOk.riGolombK_le {reset : Nat} {ctx : RiCtx} (h : RiCtxOk reset ctx) (t : Fin 2) :
    riGolombK t ctx ≤ 24 := by
  obtain ⟨ha, -, hn, -⟩ := h
  change ctx.a < 16777216 at ha
  have ht : ctx.n / 2 * t.val ≤ ctx.n / 2 := by
    simpa using Nat.mul_le_mul_left (ctx.n / 2) (Nat.lt_succ_iff.1 t.isLt)
  refine Machine.golombK_le ?_
  rw [Nat.shiftRight_one]
  omega

/-! ## The traits of a legal scan (42_traits_predictor.md R220) -/

theorem ceilLog2_le {n m : Nat} (h : n ≤ 2 ^ m) : ceilLog2 n ≤ m := by
  unfold ceilLog2
  split
  · exact Nat.zero_le m
  · exact Nat.succ_le_of_lt ((Nat.log2_lt (by omega)).2 (by omega))

theorem le_two_pow_ceilLog2 (n : Nat) : n ≤ 2 ^ ceilLog2 n := by
  unfold ceilLog2
  split
  · simpa
  · have := Nat.lt_log2_self (n := n - 1)
    omega

theorem traitRange_le (maxval near : Nat) : traitRange maxval near ≤ maxval + 1 := by
  have : maxval + 2 * near < (maxval + 1) * (2 * near + 1) := by nlinarith
  exact Nat.succ_le_succ (Nat.lt_succ_iff.1 (Nat.div_lt_of_lt_mul (by linarith)))

/-- A legal scan has at most 16-bit escape values, and LIMIT leaves room for them and for at least 17 zeros. -/
theorem latch_limits {c : Cfg} (h : (latch c).legal = true) :
    (latch c).qbpp ≤ 16 ∧ (latch c).qbpp + 18 ≤ (latch c).limit := by
  obtain ⟨-, -, ⟨-, hp⟩, ⟨-, hm⟩, -⟩ := (Scan.legal_iff _).1 h
  have hpow : 2 ^ (latch c).p ≤ 2 ^ 16 := Nat.pow_le_pow_right (by decide) hp
  have hrange : (latch c).range ≤ (latch c).maxval + 1 := traitRange_le _ _
  have hq : (latch c).qbpp = ceilLog2 (latch c).range := rfl
  have hb : (latch c).bpp = max 2 (ceilLog2 ((latch c).maxval + 1)) := rfl
  have hl : (latch c).limit = 2 * ((latch c).bpp + max 8 (latch c).bpp) := rfl
  have hqbpp : (latch c).qbpp ≤ 16 := hq ▸ ceilLog2_le (by omega)
  have hle : (latch c).qbpp ≤ ceilLog2 ((latch c).maxval + 1) :=
    hq ▸ ceilLog2_le (hrange.trans (le_two_pow_ceilLog2 _))
  omega

theorem jOf_le (i : Fin 32) : jOf i ≤ 15 := by
  revert i
  decide

/-! ## The context -/

/-- Settles O13: `codeContext` case by case, and the bounds of contexts and traits in each. -/
theorem codeContextFitsReader : Obligations.CodeContextFitsReader := by
  intro s
  refine ⟨by unfold codeContext; cases s.fsm <;> rfl, ?_⟩
  intro c hlatched hcontexts hbusy hc
  obtain ⟨cfg, hscan, hlegal⟩ := hlatched hbusy
  obtain ⟨hreg, hri⟩ := hcontexts hbusy
  obtain ⟨hqbpp, hlimit⟩ := latch_limits hlegal
  rw [← hscan] at hqbpp hlimit
  have hj : s.j ≤ 15 := jOf_le _
  unfold codeContext at hc
  split at hc <;> cases hc
  · exact ⟨(hreg _).golombK_le, hqbpp, by unfold escThreshold; omega⟩
  · exact hj
  · exact ⟨(hri _).riGolombK_le _, hqbpp, by unfold escThreshold riLimit; omega⟩
  · trivial

end Sys2Proof.Machine
end

section
/-! # Every step keeps the bit reader well formed

A read that ends well leaves a well-formed reader, whatever its width; no code word moves the reader after its read, no
transition without a read moves it, and a supply during a scan changes no byte the reader depends on
(40_bitreader.md R150; 10_state.md R42, R43). -/

namespace Sys2Proof.Machine

/-! ## Reads -/

/-- If the read ends well, it leaves a well-formed reader. -/
def Read.EndsOk {α : Type} (mem : Memory) (len : Nat) (m : Read α) : Prop :=
  ∀ a r', m = .done a r' → ReaderOk mem len r'

section Reads

variable {mem : Memory} {len : Nat} {r : BitReader}

theorem Read.endsOk_done {α : Type} (a : α) (hr : ReaderOk mem len r) : (Read.done a r).EndsOk mem len := by
  intro a' r' h
  cases h
  exact hr

theorem Read.EndsOk.andThen {α β : Type} {m : Read α} {f : α → BitReader → Read β} (hm : m.EndsOk mem len)
    (hf : ∀ a r', ReaderOk mem len r' → (f a r').EndsOk mem len) : (m.andThen f).EndsOk mem len := by
  intro b r' h
  obtain ⟨a, u, hu, h⟩ := Read.andThen_eq_done h
  exact hf a u (hm a u hu) b r' h

theorem ReadsAs.endsOk {α : Type} {m : Read α} {p : Except DecodeError (α × List Bool)} (h : ReadsAs mem len m p) :
    m.EndsOk mem len := by
  intro a r' hm
  obtain ⟨_, _, h, hok, -⟩ | ⟨_, h, -⟩ := h <;> cases h.symm.trans hm
  exact hok

/-- Of any width: the bits are taken only when they are there. -/
theorem readValue_endsOk (hr : ReaderOk mem len r) (k : Nat) : (readValue mem len k r).EndsOk mem len := by
  intro a r' hdone
  rcases readValue_cases mem len k r with ⟨-, h⟩ | ⟨-, u, hfrom, hvalid, h⟩ | ⟨-, -, _, h, -⟩ <;>
    cases h.symm.trans hdone
  · exact hr
  · rcases hfrom with rfl | hfrom
    · exact hr.skip hvalid
    · exact (refilled_of_refill_done hr hfrom).1.skip hvalid

theorem peekByte_endsOk (hr : ReaderOk mem len r) : (peekByte mem len r).EndsOk mem len := by
  intro a r' hdone
  rcases peekByte_spec hr with ⟨_, h, hok, -⟩ | ⟨_, h, -⟩ <;> cases h.symm.trans hdone
  exact hok

theorem readCodeWord_endsOk (hr : ReaderOk mem len r) (k limit qbpp : Nat) (short escape : Nat → Nat → Instr) :
    (readCodeWord mem len k limit qbpp short escape r).EndsOk mem len := by
  refine (readHighBits_readsAs hr).endsOk.andThen fun q u hu => ?_
  split <;> exact (readValue_endsOk hu _).andThen fun _ _ => Read.endsOk_done _

theorem readRegular_endsOk (hr : ReaderOk mem len r) (k limit qbpp : Nat) :
    (readRegular mem len k limit qbpp r).EndsOk mem len := by
  unfold readRegular
  split
  · refine (peekByte_endsOk hr).andThen fun v u hu => ?_
    split
    · rename_i hhit
      exact Read.endsOk_done _ (hu.skip hhit.2)
    · exact readCodeWord_endsOk hu _ _ _ _ _
  · exact readCodeWord_endsOk hr _ _ _ _ _

theorem readRun_endsOk (hr : ReaderOk mem len r) (j : Nat) : (readRun mem len j r).EndsOk mem len := by
  refine (readValue_endsOk hr 1).andThen fun bit u hu => ?_
  split
  · exact Read.endsOk_done _ hu
  · exact (readValue_endsOk hu j).andThen fun _ _ => Read.endsOk_done _

end Reads

theorem readCode_endsOk {s : State} (hr : ReaderOk s.input s.scan.len s.brd) (c : ParseCtx) :
    (readCode c s).EndsOk s.input s.scan.len := by
  cases c with
  | regular k limit qbpp => exact readRegular_endsOk hr k limit qbpp
  | runScan j => exact readRun_endsOk hr j
  | runInterrupt k glimit qbpp => exact readCodeWord_endsOk hr k glimit qbpp _ _
  | byteLevel => exact Read.endsOk_done _ hr
  | finalize => exact Read.endsOk_done _ hr
  | hostWrite reg => exact Read.endsOk_done _ hr

/-! ## What moves no reader -/

/-- A scan that runs in `t` ran in `s`, with the same reader on the same input. -/
def SameReader (s t : State) : Prop :=
  t.phase = .busy → s.phase = .busy ∧ t.brd = s.brd ∧ t.input = s.input ∧ t.scan = s.scan

theorem ReaderInv.of_sameReader {s t : State} (hs : ReaderInv s) (h : SameReader s t) : ReaderInv t := by
  intro ht
  obtain ⟨hbusy, hbrd, hinput, hscan⟩ := h ht
  rw [hbrd, hinput, hscan]
  exact hs hbusy

/-- An error ends the scan. -/
theorem sameReader_raiseError (code : ErrCode) (s u : State) : SameReader s (raiseError code u) := by
  simp [SameReader]

theorem regularStep_sameReader (merr : Nat) (s : State) : SameReader s (regularStep merr s) := by
  rcases regularStep_cases merr s with ⟨e, -, -, -, h⟩ | h <;> rw [h]
  · exact fun hbusy => ⟨hbusy, rfl, rfl, rfl⟩
  · exact sameReader_raiseError _ s s

theorem riStep_sameReader (em : Nat) (s : State) : SameReader s (riStep em s) := by
  rcases riStep_cases em s with ⟨e, -, -, -, h⟩ | h <;> rw [h]
  · exact fun hbusy => ⟨hbusy, rfl, rfl, rfl⟩
  · exact sameReader_raiseError _ s s

theorem execRun1_sameReader {s t : State} (h : execRun1 s = .next t) : SameReader s t := by
  rcases execRun1_cases s with ⟨-, h'⟩ | ⟨-, h'⟩ <;> cases h.symm.trans h' <;>
    exact fun hbusy => ⟨hbusy, rfl, rfl, rfl⟩

theorem execRun0_sameReader {n : Nat} {s t : State} (h : execRun0 n s = .next t) : SameReader s t := by
  rcases execRun0_cases n s with ⟨-, h'⟩ | ⟨-, -, h'⟩ | ⟨-, -, h'⟩ <;> cases h.symm.trans h'
  · exact sameReader_raiseError _ s s
  · exact fun hbusy => ⟨hbusy, rfl, rfl, rfl⟩
  · exact fun hbusy => ⟨hbusy, rfl, rfl, rfl⟩

/-- The padding check moves the reader and ends the scan. -/
theorem execPad_sameReader {n : Nat} {s t : State} (h : execPad n s = .next t) : SameReader s t := by
  rcases execPad_cases n s with ⟨r, -, h'⟩ | ⟨code, r, -, -, h'⟩ <;> cases h.symm.trans h'
  · intro hbusy
    cases hbusy
  · exact sameReader_raiseError code s _

/-- Running a code word that has been read does not move the reader of a running scan. -/
theorem exec_sameReader_of_read {c : ParseCtx} {u s t : State} {i : Instr} {r : BitReader}
    (hi : readCode c u = .done i r) (h : exec i s = .next t) : SameReader s t := by
  cases c with
  | regular k limit qbpp =>
    rcases readRegular_form hi with ⟨q, x, rfl⟩ | ⟨q, v, rfl⟩ <;> cases h <;> exact regularStep_sameReader _ s
  | runInterrupt k glimit qbpp =>
    rcases readCodeWord_form hi with ⟨q, x, rfl⟩ | ⟨q, v, rfl⟩ <;> cases h <;> exact riStep_sameReader _ s
  | runScan j =>
    rcases readRun_form hi with rfl | ⟨n, rfl⟩
    · exact execRun1_sameReader h
    · exact execRun0_sameReader h
  | _ =>
    cases hi
    exact execPad_sameReader (n := u.brd.valid) h

theorem classify_sameReader (s : State) : SameReader s (classify s) := by
  unfold classify
  split_ifs <;> exact fun hbusy => ⟨hbusy, rfl, rfl, rfl⟩

theorem lineEnd_sameReader (s : State) : SameReader s (lineEnd s) := by
  unfold lineEnd
  split
  · exact fun hbusy => ⟨hbusy, rfl, rfl, rfl⟩
  · split
    · exact fun hbusy => ⟨hbusy, rfl, rfl, rfl⟩
    · exact sameReader_raiseError _ s _

/-! ## Transitions of the block -/

/-- One code word: the read leaves a well-formed reader, and running it leaves the reader where the read did. -/
theorem ReaderInv.runCode {c : ParseCtx} {s t : State} (hs : ReaderInv s) (h : runCode exec c s = .next t) :
    ReaderInv t := by
  rcases runCode_cases h with ⟨i, r, hi, h⟩ | ⟨code, r, -, rfl⟩
  · have hread : ReaderInv (s.setBrd r) := fun hbusy => readCode_endsOk (hs hbusy) c i r hi
    exact hread.of_sameReader (exec_sameReader_of_read hi h)
  · exact hs.of_sameReader (sameReader_raiseError code s _)

theorem ReaderInv.blockStep {s t : State} (hs : ReaderInv s) (h : blockStep exec s = .next t) : ReaderInv t := by
  rcases blockStep_cases h with ⟨-, rfl⟩ | ⟨-, rfl⟩ | ⟨-, rfl⟩ | ⟨-, rfl⟩ | ⟨-, h⟩ | ⟨-, c, -, h⟩
  · exact hs
  · exact hs
  · exact hs.of_sameReader (classify_sameReader s)
  · exact hs.of_sameReader (lineEnd_sameReader s)
  · exact runScanLoop_keeps (P := ReaderInv) (fun _ _ hu huv => hu.runCode huv) _ (s.setRunCnt 0) t hs h
  · exact hs.runCode h

/-! ## Moves of the host -/

/-- At START the reader is empty and in front of the first byte (10_state.md R57). -/
theorem readerOk_initial (mem : Memory) (len : Nat) : ReaderOk mem len ⟨0, 0, 0, false⟩ :=
  ⟨Nat.zero_le _, by decide, Nat.zero_le _, by simp⟩

theorem ReaderInv.execCtrlStart {s t : State} (hs : ReaderInv s) (h : execCtrlStart s = .next t) : ReaderInv t := by
  rcases execCtrlStart_cases s with ⟨-, h'⟩ | ⟨-, -, h'⟩ | ⟨-, -, h'⟩ <;> cases h.symm.trans h'
  · exact hs
  · exact fun _ => readerOk_initial _ _
  · exact hs.of_sameReader (sameReader_raiseError _ s _)

/-- The last byte of the input is a marker or none whatever lies behind it (20_memory.md R88). -/
theorem markerAt_congr {mem mem' : Memory} {len i : Nat} (h : ∀ a < len, mem'.read a = mem.read a) (hi : i < len) :
    markerAt mem' len i = markerAt mem len i := by
  rw [markerAt, markerAt, h i hi]
  by_cases hlast : i + 1 = len
  · simp [hlast]
  · rw [h (i + 1) (by omega)]

theorem markerFrom_congr {mem mem' : Memory} {len : Nat} (h : ∀ a < len, mem'.read a = mem.read a) (n : Nat) {i : Nat}
    (hi : i + n ≤ len) : markerFrom mem' len n i = markerFrom mem len n i := by
  induction n generalizing i with
  | zero => rfl
  | succ n ih => rw [markerFrom, markerFrom, markerAt_congr h (by omega), ih (by omega)]

/-- The reader depends on no byte from LEN on. -/
theorem ReaderOk.congr {mem mem' : Memory} {len : Nat} {r : BitReader} (hr : ReaderOk mem len r)
    (h : ∀ a < len, mem'.read a = mem.read a) : ReaderOk mem' len r := by
  obtain ⟨hvalid, hcache, hpos, hafter⟩ := hr
  have hmarker : markerPos mem' len = markerPos mem len := markerFrom_congr h len (by omega)
  refine ⟨hvalid, hcache, by rwa [hmarker], hafter.trans (and_congr_right fun h0 => ?_)⟩
  have hlen := markerPos_le mem len
  rw [h (r.pos - 1) (by omega)]

theorem ReaderInv.supplyByte {s : State} (hs : ReaderInv s) {i : BitVec 32} {b : Byte}
    (hfree : ¬ (s.phase = .busy ∧ i.toNat < s.scan.len)) : ReaderInv (supplyByte i b s) := by
  intro hbusy
  have hi : s.scan.len ≤ i.toNat := Nat.not_lt.1 fun hlt => hfree ⟨hbusy, hlt⟩
  exact (hs hbusy).congr fun a ha => Memory.read_write_of_ne _ _ (by omega)

/-- Settles O57: START makes a well-formed reader, a transition keeps it by `ReaderInv.blockStep`, and the only host
move that touches what it depends on is a supply, at or behind LEN. -/
theorem stepKeepsReaderInvariant : Obligations.StepKeepsReaderInvariant := by
  intro s t hs h
  have hpop : ReaderInv s.popHost := hs
  rcases step_cases h with ⟨num, v, rest, -, ⟨-, h⟩ | rfl⟩ | ⟨num, rest, -, rfl⟩ | ⟨i, b, rest, -, hfree, rfl⟩ |
    ⟨rest, -, rfl⟩ | ⟨-, h⟩
  · exact hpop.execCtrlStart h
  · exact hs
  · exact hs
  · exact hpop.supplyByte hfree
  · intro hbusy
    cases hbusy
  · exact hpop.blockStep h

end Sys2Proof.Machine
end

section
/-! # The byte forms and the refills that run them

What each byte form does to the bit reader (30_encoding.md R112 to R114), one turn of a refill as the byte form at POS,
and a whole refill: byte at a time (40_bitreader.md R151) and by one wide load (R154). -/

namespace Sys2Proof.Machine

/-! ## Two loads in a row -/

theorem ofNat_shiftLeft {w : Nat} (a n : Nat) : BitVec.ofNat w (a <<< n) = BitVec.ofNat w a <<< n := by
  refine BitVec.eq_of_toNat_eq ?_
  simp [Nat.shiftLeft_eq, Nat.mod_mul_mod]

/-- Behind `v` valid bits, `m` bits and then `n` bits are loaded as one field of `m + n` bits. -/
theorem or_shiftLeft_adjacent {v m n : Nat} (hroom : v + m + n ≤ 32) (a b : Nat) :
    BitVec.ofNat 32 a <<< (32 - v - m) ||| BitVec.ofNat 32 b <<< (32 - (v + m) - n) =
      BitVec.ofNat 32 (a <<< n ||| b) <<< (32 - v - (m + n)) := by
  have hfirst : 32 - v - m = n + (32 - v - (m + n)) := by omega
  have hsecond : 32 - (v + m) - n = 32 - v - (m + n) := by omega
  rw [BitVec.ofNat_or, ofNat_shiftLeft, BitVec.shiftLeft_or_distrib, ← BitVec.shiftLeft_add, ← hfirst, hsecond]

/-! ## PLAIN_BYTE and STUFFED_PAIR (30_encoding.md R112, R113) -/

theorem not_hasRoom_iff (r : BitReader) : r.hasRoom = false ↔ 24 < r.valid := by
  rw [← Bool.not_eq_true, hasRoom_iff, Nat.not_le]

section Loads

variable {r : BitReader}

theorem loadPlain_of_room (hroom : r.valid ≤ 24) (b : Byte) :
    loadPlain b r =
      { r with
        cache := r.cache ||| (b.setWidth 32 <<< (24 - r.valid)), valid := r.valid + 8, pos := r.pos + 1 } := by
  have hshift : 32 - r.valid - 8 = 24 - r.valid := by omega
  simp [loadPlain, hasRoom_iff, hroom, loadBits, hshift]

theorem loadFollower_of_room (hroom : r.valid ≤ 24) (z : BitVec 7) :
    loadFollower z r =
      ⟨r.cache ||| ((0x80#32 ||| z.setWidth 32) <<< (24 - r.valid)), r.valid + 8, r.pos + 1, false⟩ := by
  have hshift : 32 - r.valid - 8 = 24 - r.valid := by omega
  simp [loadFollower, hasRoom_iff, hroom, loadBits, hshift, BitVec.ofNat_or]

theorem loadStuffedFF_of_room (hroom : r.valid ≤ 24) :
    loadStuffedFF r = ⟨r.cache ||| (0x7F#32 <<< (25 - r.valid)), r.valid + 7, r.pos + 1, true⟩ := by
  have hshift : 32 - r.valid - 7 = 25 - r.valid := by omega
  simp [loadStuffedFF, hasRoom_iff, hroom, loadBits, hshift]

/-- With room for both bytes the pair enters as fifteen bits. -/
theorem loadStuffedPair_of_room (hff : r.afterFF = false) (hroom : r.valid ≤ 17) (z : BitVec 7) :
    loadStuffedPair z r =
      ⟨r.cache ||| ((0x7F80#32 ||| z.setWidth 32) <<< (17 - r.valid)), r.valid + 15, r.pos + 2, false⟩ := by
  have hfirst : 25 - r.valid = 32 - r.valid - 7 := by omega
  have hsecond : 24 - (r.valid + 7) = 32 - (r.valid + 7) - 8 := by omega
  have hboth : 32 - r.valid - (7 + 8) = 17 - r.valid := by omega
  have hbits : BitVec.ofNat 32 (0x7F <<< 8 ||| (0x80 ||| z.toNat)) = 0x7F80#32 ||| z.setWidth 32 := by
    rw [← Nat.or_assoc, BitVec.ofNat_or, BitVec.ofNat_toNat]
    rfl
  have hjoin := or_shiftLeft_adjacent (v := r.valid) (m := 7) (n := 8) (by omega) 0x7F (0x80 ||| z.toNat)
  rw [hbits, hboth, BitVec.ofNat_or, BitVec.ofNat_toNat] at hjoin
  have hhas : r.hasRoom = true := (hasRoom_iff r).2 (by omega)
  rw [loadStuffedPair, hff, if_neg (by decide), if_pos hhas, loadStuffedFF_of_room (by omega),
    loadFollower_of_room (by dsimp only; omega)]
  simp only [hfirst, hsecond, BitVec.or_assoc, hjoin]

/-- When the cache fills between the two bytes, only the `0xFF` enters (40_bitreader.md R152). -/
theorem loadStuffedPair_of_fills (hff : r.afterFF = false) (hfills : 17 < r.valid) (hroom : r.valid ≤ 24)
    (z : BitVec 7) : loadStuffedPair z r = loadStuffedFF r := by
  have hhas : r.hasRoom = true := (hasRoom_iff r).2 hroom
  have hfull : (loadStuffedFF r).hasRoom = false := by
    rw [not_hasRoom_iff, loadStuffedFF_of_room hroom]
    dsimp only
    omega
  rw [loadStuffedPair, hff, if_neg (by decide), if_pos hhas, loadFollower, hfull, if_neg (by decide)]

theorem loadStuffedPair_of_afterFF (hff : r.afterFF = true) (z : BitVec 7) :
    loadStuffedPair z r = loadFollower z r := by
  rw [loadStuffedPair, if_pos hff]

theorem loadPlain_of_full (hfull : 24 < r.valid) (b : Byte) : loadPlain b r = r := by
  simp [loadPlain, (not_hasRoom_iff r).2 hfull]

theorem loadStuffedPair_of_full (hfull : 24 < r.valid) (z : BitVec 7) : loadStuffedPair z r = r := by
  simp [loadStuffedPair, loadFollower, (not_hasRoom_iff r).2 hfull]

end Loads

/-- Settles O14: what each byte form loads, by the room there is. -/
theorem byteFormsLoadTheirBits : Obligations.ByteFormsLoadTheirBits := by
  intro b z s
  simp only [exec, execPlainByte, execStuffedPair]
  refine ⟨fun hroom => ?_, fun hff hroom => ?_, fun hff hfills hroom => ?_, fun hff hroom => ?_, fun hfull => ?_⟩
  · rw [loadPlain_of_room hroom]
    rfl
  · rw [loadStuffedPair_of_room hff hroom]
    rfl
  · rw [loadStuffedPair_of_fills hff hfills hroom, loadStuffedFF_of_room hroom]
    rfl
  · rw [loadStuffedPair_of_afterFF hff, loadFollower_of_room hroom]
    rfl
  · rw [loadPlain_of_full hfull, loadStuffedPair_of_full hfull]
    exact ⟨rfl, rfl⟩

/-! ## MARK (30_encoding.md R114) -/

theorem execMark_of_valid {s : State} (h : s.brd.valid ≠ 0) (m : Option (BitVec 7)) : execMark m s = .next s := by
  simp [execMark, refillResult, h]

theorem execMark_of_empty {s : State} (h : s.brd.valid = 0) (m : Option (BitVec 7)) :
    execMark m s = .next (raiseError .invalidCompressedData s) := by
  simp [execMark, refillResult, h]

/-- Settles O15: the two ends of a refill that has stopped at a marker. -/
theorem markLoadsNothing : Obligations.MarkLoadsNothing :=
  fun m _ => ⟨fun h => execMark_of_valid h m, fun h => execMark_of_empty h m⟩

/-! ## One turn of the refill loop (40_bitreader.md R151) -/

theorem decodeByteForm_cases (b : Byte) (next : Option Byte) :
    (∃ b', decodeByteForm b next = .plainByte b') ∨ (∃ z, decodeByteForm b next = .stuffedPair z) ∨
      ∃ m, decodeByteForm b next = .mark m := by
  unfold decodeByteForm
  split
  · rcases next with _ | z
    · exact .inr (.inr ⟨_, rfl⟩)
    · dsimp only
      split
      · exact .inr (.inr ⟨_, rfl⟩)
      · exact .inr (.inl ⟨_, rfl⟩)
  · exact .inl ⟨_, rfl⟩

theorem byteFormAt_cases (mem : Memory) (len : Nat) (r : BitReader) :
    (∃ b, byteFormAt mem len r = .plainByte b) ∨ (∃ z, byteFormAt mem len r = .stuffedPair z) ∨
      ∃ m, byteFormAt mem len r = .mark m := by
  unfold byteFormAt
  split
  · exact .inr (.inl ⟨_, rfl⟩)
  · exact decodeByteForm_cases _ _

section Turn

variable {mem : Memory} {len : Nat} {r : BitReader}

theorem refillLoop_of_full (hfull : 24 < r.valid) (turns : Nat) : refillLoop mem len turns r = r := by
  cases turns with
  | zero => rfl
  | succ turns => simp [refillLoop, (not_hasRoom_iff r).2 hfull]

theorem refillLoop_plainByte (hroom : r.valid ≤ 24) (hlen : r.pos < len) {b : Byte}
    (hform : byteFormAt mem len r = .plainByte b) (turns : Nat) :
    refillLoop mem len (turns + 1) r = refillLoop mem len turns (loadPlain b r) := by
  simp [refillLoop, (hasRoom_iff r).2 hroom, hlen, hform]

theorem refillLoop_stuffedPair (hroom : r.valid ≤ 24) (hlen : r.pos < len) {z : BitVec 7}
    (hform : byteFormAt mem len r = .stuffedPair z) (turns : Nat) :
    refillLoop mem len (turns + 1) r = refillLoop mem len turns (loadStuffedPair z r) := by
  simp [refillLoop, (hasRoom_iff r).2 hroom, hlen, hform]

theorem refillLoop_mark {m : Option (BitVec 7)} (hform : byteFormAt mem len r = .mark m) (turns : Nat) :
    refillLoop mem len (turns + 1) r = r := by
  simp [refillLoop, hform]

end Turn

/-- Settles O5: a turn on each of the three byte forms. -/
theorem refillRunsByteForms : Obligations.RefillRunsByteForms := by
  intro s turns hroom hlen
  rcases byteFormAt_cases s.input s.scan.len s.brd with ⟨b, hform⟩ | ⟨z, hform⟩ | ⟨m, hform⟩
  · refine ⟨s.setBrd (loadPlain b s.brd), by rw [hform]; rfl, fun _ => refillLoop_plainByte hroom hlen hform turns,
      fun ⟨m, hm⟩ => ?_, rfl⟩
    cases hform.symm.trans hm
  · refine ⟨s.setBrd (loadStuffedPair z s.brd), by rw [hform]; rfl,
      fun _ => refillLoop_stuffedPair hroom hlen hform turns, fun ⟨m, hm⟩ => ?_, rfl⟩
    cases hform.symm.trans hm
  · have hnot : ¬ ((∃ b, byteFormAt s.input s.scan.len s.brd = .plainByte b) ∨
        ∃ z, byteFormAt s.input s.scan.len s.brd = .stuffedPair z) := by
      simp [hform]
    by_cases hvalid : s.brd.valid = 0
    · exact ⟨_, by rw [hform]; exact execMark_of_empty hvalid m, fun h => absurd h hnot,
        fun _ => refillLoop_mark hform turns, rfl⟩
    · exact ⟨s, by rw [hform]; exact execMark_of_valid hvalid m, fun h => absurd h hnot,
        fun _ => refillLoop_mark hform turns, rfl⟩

/-! ## A whole refill (40_bitreader.md R150, R151, R153) -/

/-- Settles O6: the two ends of a refill, by what the whole loop keeps. -/
theorem refillKeepsStreamAndFillsCache : Obligations.RefillKeepsStreamAndFillsCache := by
  intro mem len r hr _
  obtain ⟨r', -, ⟨hempty, h⟩ | ⟨-, h⟩⟩ := refill_cases mem len r <;> rw [h]
  · exact ⟨rfl, hempty, bitsLeft_of_refill_raised hr h⟩
  · obtain ⟨hok, hleft, hend⟩ := refilled_of_refill_done hr h
    exact ⟨hok, hleft, hend.imp_right .inl⟩

/-! ## The fast path (40_bitreader.md R154) -/

/-- The search for the next `0xFF` passes over other bytes only, and looks at `n` positions. -/
theorem nextFFFrom_spec (mem : Memory) (n i : Nat) :
    nextFFFrom mem n i ≤ i + n ∧ ∀ j, i ≤ j → j < nextFFFrom mem n i → mem.read j ≠ 0xFF#8 := by
  induction n generalizing i with
  | zero => exact ⟨le_rfl, fun j hij hj => absurd hj (Nat.not_lt.2 hij)⟩
  | succ n ih =>
    simp only [nextFFFrom]
    split
    · exact ⟨by omega, fun j hij hj => absurd hj (Nat.not_lt.2 hij)⟩
    · rename_i hi
      obtain ⟨hle, hbefore⟩ := ih (i + 1)
      refine ⟨by omega, fun j hij hj => ?_⟩
      rcases Nat.eq_or_lt_of_le hij with rfl | hlt
      · exact hi
      · exact hbefore j hlt hj

theorem groupValue_lt (mem : Memory) (n i : Nat) : groupValue mem n i < 2 ^ (8 * n) := by
  induction n generalizing i with
  | zero => simp [groupValue]
  | succ n ih =>
    have hbyte := (mem.read i).isLt
    have hrest := ih (i + 1)
    rw [Nat.pow_mul] at hrest ⊢
    rw [groupValue, Nat.pow_succ]
    change groupValue mem n (i + 1) < 256 ^ n at hrest
    change _ < 256 ^ n * 256
    nlinarith

/-- The first byte of a group stands above the others (20_memory.md R84). -/
theorem groupValue_succ (mem : Memory) (n i : Nat) :
    groupValue mem (n + 1) i = (mem.read i).toNat <<< (8 * n) ||| groupValue mem n (i + 1) := by
  rw [← Nat.shiftLeft_add_eq_or_of_lt (groupValue_lt mem n (i + 1)), Nat.shiftLeft_eq, Nat.pow_mul]
  rfl

theorem fastRefill_of_full {mem : Memory} {r : BitReader} (hfull : 24 < r.valid) : fastRefill mem r = r := by
  have hnone : (32 - r.valid) / 8 = 0 := by omega
  simp [fastRefill, hnone, groupValue]

/-- A wide load after a plain byte is the wide load in front of it. -/
theorem fastRefill_loadPlain {mem : Memory} {r : BitReader} (hroom : r.valid ≤ 24) :
    fastRefill mem (loadPlain (mem.read r.pos) r) = fastRefill mem r := by
  obtain ⟨n, hn⟩ : ∃ n, (32 - (r.valid + 8)) / 8 = n := ⟨_, rfl⟩
  have hn' : (32 - r.valid) / 8 = n + 1 := by omega
  have hwidth : 8 * (n + 1) = 8 + 8 * n := by omega
  have hjoin := or_shiftLeft_adjacent (v := r.valid) (m := 8) (n := 8 * n) (by omega) (mem.read r.pos).toNat
    (groupValue mem n (r.pos + 1))
  rw [loadPlain, if_pos ((hasRoom_iff r).2 hroom)]
  simp only [fastRefill, loadBits, Config.cacheWidth, hn, hn', hwidth, groupValue_succ, BitVec.or_assoc, hjoin,
    Nat.add_assoc, Nat.add_comm 1]

/-- Plain bytes as far as the cache has room: the loop does what one wide load does. -/
theorem refillLoop_eq_fastRefill {mem : Memory} {len : Nat} {r : BitReader} (turns : Nat) (hff : r.afterFF = false)
    (hplain : ∀ i < (32 - r.valid) / 8, r.pos + i < len ∧ mem.read (r.pos + i) ≠ 0xFF#8)
    (hturns : (32 - r.valid) / 8 ≤ turns) : refillLoop mem len turns r = fastRefill mem r := by
  induction turns generalizing r with
  | zero =>
    have hfull : 24 < r.valid := by omega
    rw [refillLoop_of_full hfull, fastRefill_of_full hfull]
  | succ turns ih =>
    by_cases hroom : r.valid ≤ 24
    · obtain ⟨hlen, hb⟩ : r.pos < len ∧ mem.read r.pos ≠ 0xFF#8 := hplain 0 (by omega)
      have hload : loadPlain (mem.read r.pos) r = loadBits (mem.read r.pos).toNat 8 r.afterFF r :=
        if_pos ((hasRoom_iff r).2 hroom)
      rw [refillLoop_plainByte hroom hlen (byteFormAt_plain hff hb), ← fastRefill_loadPlain hroom]
      refine ih (by rw [hload, loadBits_afterFF, hff]) (fun i hi => ?_) (by rw [hload, loadBits_valid]; omega)
      rw [hload, loadBits_valid] at hi
      rw [hload, loadBits_pos, Nat.add_assoc, Nat.add_comm 1]
      exact hplain (i + 1) (by omega)
    · have hfull : 24 < r.valid := Nat.not_le.1 hroom
      rw [refillLoop_of_full hfull, fastRefill_of_full hfull]

/-- Settles O7: there is room for at most four bytes, and the next four are plain. -/
theorem fastPathEqualsRefill : Obligations.FastPathEqualsRefill := by
  intro mem len r hroom hff hfar
  obtain ⟨hend, hbefore⟩ := nextFFFrom_spec mem (len - r.pos) r.pos
  have hfar' : r.pos + 4 ≤ nextFFFrom mem (len - r.pos) r.pos := hfar
  have hloop : refillLoop mem len Config.cacheWidth r = fastRefill mem r :=
    refillLoop_eq_fastRefill _ hff (fun i hi => ⟨by omega, hbefore _ (by omega) (by omega)⟩)
      (by change _ ≤ 32; omega)
  have hsome : (fastRefill mem r).valid ≠ 0 := by
    change r.valid + 8 * ((32 - r.valid) / 8) ≠ 0
    omega
  rw [refill, hloop, refillResult, if_neg hsome]

end Sys2Proof.Machine
end

section
/-! # The read operations

Each read operation against the unconsumed stream, and when it refills (40_bitreader.md R155 to R159; 41_golomb.md
R207). -/

namespace Sys2Proof.Machine

/-! ## ReadValue (40_bitreader.md R156) -/

/-- The bits that are in the cache are taken from it (40_bitreader.md R155). -/
theorem readValue_of_valid (mem : Memory) (len : Nat) {k : Nat} {r : BitReader} (hk : k ≤ r.valid) :
    ∃ v, readValue mem len k r = .done v (skip k r) := by
  by_cases hk0 : k = 0
  · exact ⟨0, by simp [readValue, hk0, skip]⟩
  · exact ⟨topBits k r, by simp [readValue, hk0, takeBits, Nat.not_lt.2 hk]⟩

/-- A read of more than VALID bits is a refill and then a read from the cache. -/
theorem readValue_of_short (mem : Memory) (len : Nat) {k : Nat} {r : BitReader} (hk : r.valid < k) :
    readValue mem len k r = (refill mem len r).andThen fun _ u => takeBits k u := by
  have hk0 : k ≠ 0 := by omega
  simp [readValue, hk0, hk]

theorem takeBits_eq_ite (k : Nat) (r : BitReader) :
    takeBits k r = if k ≤ r.valid then .done (topBits k r) (skip k r) else .raised .invalidCompressedData r := by
  rcases takeBits_cases k r with ⟨hk, h⟩ | ⟨hk, h⟩ <;> rw [h]
  · rw [if_pos hk]
  · rw [if_neg (Nat.not_le.2 hk)]

theorem orTruncated_eq_ok_iff {α : Type} {o : Option α} {a : α} : orTruncated o = .ok a ↔ o = some a := by
  cases o <;> simp [orTruncated]

theorem orTruncated_eq_error_iff {α : Type} {o : Option α} {e : DecodeError} :
    orTruncated o = .error e ↔ o = none ∧ e = .truncated := by
  cases o <;> simp [orTruncated, eq_comm]

/-- Settles O8: the read is the decoder's field reader, and its two schedules are those of `readValue_of_valid` and
`readValue_of_short`. -/
theorem readValueTakesStreamBits : Obligations.ReadValueTakesStreamBits := by
  refine ⟨fun mem len k r hr hk => ?_, fun mem len k r => ⟨fun hvalid => ?_, fun hshort => ?_⟩⟩
  · obtain ⟨v, r', h, hok, hfield⟩ | ⟨r', h, hfield⟩ := readValue_readsAs hr hk <;> rw [h]
    · exact ⟨hok, readField_eq_some_iff.1 (orTruncated_eq_ok_iff.1 hfield)⟩
    · exact ⟨rfl, readField_eq_none_iff.1 (orTruncated_eq_error_iff.1 hfield).1⟩
  · obtain ⟨v, h⟩ := readValue_of_valid mem len hvalid
    exact ⟨v, skip k r, h, rfl, rfl, rfl⟩
  · rw [readValue_of_short mem len hshort]
    refine ⟨fun u hu => ?_, fun code u hu => ?_⟩ <;> rw [hu]
    · exact takeBits_eq_ite k u
    · rfl

/-! ## ReadHighBits (40_bitreader.md R159) -/

theorem readUnary_eq_none_iff {bits : List Bool} : readUnary bits = none ↔ ∀ b ∈ bits, b = false := by
  induction bits with
  | nil => simp [readUnary]
  | cons b bits ih =>
    cases b with
    | true => simp [readUnary]
    | false => rw [readUnary_false, Option.map_eq_none_iff, ih, List.forall_mem_cons, and_iff_right rfl]

/-- Settles O9: the read is the decoder's reader of unary quotients. -/
theorem readHighBitsCountsZeros : Obligations.ReadHighBitsCountsZeros := by
  intro mem len r hr
  obtain ⟨q, r', h, hok, hunary⟩ | ⟨r', h, hunary⟩ := readHighBits_readsAs hr <;> rw [h]
  · exact ⟨hok, readUnary_eq_some_iff.1 (orTruncated_eq_ok_iff.1 hunary)⟩
  · exact ⟨rfl, readUnary_eq_none_iff.1 (orTruncated_eq_error_iff.1 hunary).1⟩

/-! ## The peek-table path (40_bitreader.md R158, 41_golomb.md R207) -/

theorem peekByte_of_valid (mem : Memory) (len : Nat) {r : BitReader} (h : 8 ≤ r.valid) :
    peekByte mem len r = .done (topBits 8 r) r := by
  simp [peekByte, Nat.not_lt.2 h]

theorem peekByte_of_short (mem : Memory) (len : Nat) {r : BitReader} (h : r.valid < 8) :
    peekByte mem len r = (refill mem len r).andThen fun _ u => .done (topBits 8 u) u := by
  simp [peekByte, h]

theorem readRegular_of_untabled (mem : Memory) (len : Nat) {k : Nat} (hk : 15 < k) (limit qbpp : Nat) (r : BitReader) :
    readRegular mem len k limit qbpp r = readCodeWord mem len k limit qbpp .reg .esc r := by
  simp [readRegular, Config.lutMaxK, Nat.not_le.2 hk]

theorem readRegular_of_tabled (mem : Memory) (len : Nat) {k : Nat} (hk : k ≤ 15) (limit qbpp : Nat) (r : BitReader) :
    readRegular mem len k limit qbpp r = (peekByte mem len r).andThen fun v u =>
      if (glut k v).1 ≠ 0 ∧ (glut k v).1 ≤ u.valid then
        .done (.reg ((glut k v).2 / 2 ^ k) ((glut k v).2 % 2 ^ k)) (skip (glut k v).1 u)
      else readCodeWord mem len k limit qbpp .reg .esc u := by
  simp [readRegular, Config.lutMaxK, hk, Nat.shiftRight_eq_div_pow]

/-- Two reads that follow the same parse end with the same value in front of the same bits, or both raise. -/
theorem ReadsAs.agree {α : Type} {mem : Memory} {len : Nat} {m m' : Read α}
    {p : Except DecodeError (α × List Bool)} (h : ReadsAs mem len m p) (h' : ReadsAs mem len m' p) :
    (∃ a r r', m = .done a r ∧ m' = .done a r' ∧ bitsLeft mem len r = bitsLeft mem len r') ∨
      ∃ code r r', m = .raised code r ∧ m' = .raised code r' := by
  obtain ⟨a, r, hm, -, hp⟩ | ⟨r, hm, hp⟩ := h <;> obtain ⟨a', r', hm', -, hp'⟩ | ⟨r', hm', hp'⟩ := h' <;>
    have hpp := hp.symm.trans hp'
  · simp only [Except.ok.injEq, Prod.mk.injEq] at hpp
    obtain ⟨rfl, hleft⟩ := hpp
    exact .inl ⟨a, r, r', hm, hm', hleft⟩
  · cases hpp
  · cases hpp
  · exact .inr ⟨_, r, r', hm, hm'⟩

/-- Settles O11: with and without the table the read follows the decoder's regular code word; the procedure is
`readRegular` and `peekByte` case by case. -/
theorem peekTablePathIsExact : Obligations.PeekTablePathIsExact := by
  refine ⟨fun mem len k limit qbpp r hr hk hqbpp hthreshold => ?_, fun mem len r => ⟨peekByte_of_valid mem len,
    fun hshort => ?_⟩, fun mem len k limit qbpp r =>
      ⟨fun hk => readRegular_of_untabled mem len hk limit qbpp r, fun hk => ?_⟩⟩
  · obtain ⟨i, r', r'', h, h', hleft⟩ | ⟨code, r', r'', h, h'⟩ :=
      (readRegular_readsAs hr hk hqbpp hthreshold).agree (readCodeWord_readsAs hr hk hqbpp limit .reg .esc) <;>
      rw [h, h']
    exact ⟨rfl, hleft⟩
  · rw [peekByte_of_short mem len hshort]
    refine ⟨fun u hu => ?_, fun code u hu => ?_⟩ <;> rw [hu] <;> rfl
  · rw [readRegular_of_tabled mem len hk]
    refine ⟨fun v u hu => ?_, fun code u hu => ?_⟩ <;> rw [hu] <;> rfl

end Sys2Proof.Machine
end

section
/-! # The end of the scan

The position the scan ends at (40_bitreader.md R166), and the padding check (R163). -/

namespace Sys2Proof.Machine

/-! ## CurrentBytePosition (40_bitreader.md R166) -/

/-- The bits that `n` bytes from position `p` have contributed. -/
def contributedFrom (mem : Memory) (p n : Nat) : Nat := ((List.range' p n).map (contributed mem)).sum

@[simp] theorem contributedFrom_zero (mem : Memory) (p : Nat) : contributedFrom mem p 0 = 0 := rfl

theorem contributedFrom_succ (mem : Memory) (p n : Nat) :
    contributedFrom mem p (n + 1) = contributedFrom mem p n + contributed mem (p + n) := by
  simp [contributedFrom, List.range'_1_concat]

theorem contributed_pos (mem : Memory) (p : Nat) : 0 < contributed mem p := by
  unfold contributed
  split <;> decide

/-- With more turns than bits the loop steps back over whole bytes of the `v` bits, and stops in front of none or of a
byte that contributed more than is left. -/
theorem bytePositionLoop_spec (mem : Memory) {turns v : Nat} (hturns : v < turns) (p : Nat) :
    let p' := bytePositionLoop mem turns v p
    p' ≤ p ∧ contributedFrom mem p' (p - p') ≤ v ∧
      (0 < p' → v - contributedFrom mem p' (p - p') < contributed mem (p' - 1)) := by
  induction turns generalizing v p with
  | zero => exact absurd hturns (Nat.not_lt_zero v)
  | succ turns ih =>
    have hpos := contributed_pos mem (p - 1)
    simp only [bytePositionLoop]
    split_ifs with hv hstop
    · simpa [hv] using fun _ => hpos
    · simpa using fun _ => hstop
    · obtain ⟨hle, hsum, hlast⟩ := ih (v := v - contributed mem (p - 1)) (by omega) (p - 1)
      generalize bytePositionLoop mem turns (v - contributed mem (p - 1)) (p - 1) = p' at hle hsum hlast ⊢
      rcases p with _ | m
      · obtain rfl : p' = 0 := Nat.le_zero.1 hle
        exact ⟨le_rfl, Nat.zero_le v, fun h => absurd h (Nat.lt_irrefl 0)⟩
      · rw [Nat.add_sub_cancel] at hle hsum hlast hstop
        have hcount : m + 1 - p' = m - p' + 1 := by omega
        rw [hcount, contributedFrom_succ, Nat.add_sub_cancel' hle]
        exact ⟨by omega, by omega, fun h => by have := hlast h; omega⟩

/-- Settles O10: VALID + 1 turns are enough for VALID bits. -/
theorem bytePositionCountsWholeBytes : Obligations.BytePositionCountsWholeBytes :=
  fun mem r => bytePositionLoop_spec mem (Nat.lt_succ_self r.valid) r.pos

/-! ## PAD (40_bitreader.md R163, 45_scan_control.md R349) -/

section Finalize

variable {mem : Memory} {len : Nat} {r : BitReader}

theorem finalize_of_nextIsFF (h : nextIsFF mem len r = true) : finalize mem len r = checkPadding r := by
  rw [finalize, if_pos h]

theorem finalize_of_not_nextIsFF (h : nextIsFF mem len r = false) :
    finalize mem len r = (readBit mem len r).andThen fun _ r' =>
      if nextIsFF mem len r' then checkPadding r' else .raised .tooMuchCompressedData r' := by
  rw [finalize, h, if_neg (by decide)]

end Finalize

theorem execPad_of_raised {s : State} {code : ErrCode} {r : BitReader}
    (h : finalize s.input s.scan.len s.brd = .raised code r) (n : Nat) :
    execPad n s = .next (raiseError code (s.setBrd r)) := by
  rw [execPad, h]

/-- The check of the unconsumed bits decides how the scan ends. -/
theorem execPad_of_checkPadding {s : State} {r : BitReader}
    (h : finalize s.input s.scan.len s.brd = checkPadding r) (n : Nat) :
    execPad n s =
      .next (if r.cache = 0 then finishScan (s.setBrd r) else raiseError .tooMuchCompressedData (s.setBrd r)) := by
  rcases checkPadding_cases r with ⟨hzero, hcheck⟩ | ⟨hzero, hcheck⟩ <;> rw [execPad, h, hcheck]
  · rw [if_pos hzero]
  · rw [if_neg hzero]

/-- Settles O46: where `finalize` ends in each case of the statement. -/
theorem paddingCheckEndsScan : Obligations.PaddingCheckEndsScan := by
  intro n s
  refine ⟨fun hff => execPad_of_checkPadding (finalize_of_nextIsFF hff) n, fun hff => ?_⟩
  have hfinalize := finalize_of_not_nextIsFF hff
  refine ⟨fun code r hbit => ?_, fun b r hbit => ⟨fun hnext => ?_, fun hnext => ?_⟩⟩ <;>
    simp only [hbit, Read.andThen_done, Read.andThen_raised] at hfinalize
  · exact execPad_of_raised hfinalize n
  · rw [if_pos hnext] at hfinalize
    exact execPad_of_checkPadding hfinalize n
  · rw [hnext, if_neg (by decide)] at hfinalize
    exact execPad_of_raised hfinalize n

end Sys2Proof.Machine
end

section
/-! # Traits, gradients, prediction and reconstruction

The bounds of the traits and of the default thresholds (42_traits_predictor.md R220, R224), the folds of the gradient
quantiser and of the context number (R231, R240), the predictor (R245), and the reconstruction against the encoder's
error mapping (R228, 43_regular_mode.md R270). -/

namespace Sys2Proof.Machine

/-! ## The traits (42_traits_predictor.md R220) -/

theorem ceilLog2_le_iff {n m : Nat} : ceilLog2 n ≤ m ↔ n ≤ 2 ^ m :=
  ⟨fun h => (le_two_pow_ceilLog2 n).trans (Nat.pow_le_pow_right (by decide) h), ceilLog2_le⟩

theorem ceilLog2_mono {n m : Nat} (h : n ≤ m) : ceilLog2 n ≤ ceilLog2 m :=
  ceilLog2_le (h.trans (le_two_pow_ceilLog2 m))

theorem ceilLog2_pos {n : Nat} (h : 2 ≤ n) : 1 ≤ ceilLog2 n := by
  by_contra hzero
  have : n ≤ 2 ^ 0 := ceilLog2_le_iff.1 (by omega)
  omega

theorem traitRange_lossless (maxval : Nat) : traitRange maxval 0 = maxval + 1 := by simp [traitRange]

theorem two_le_traitRange {maxval : Nat} (h : 1 ≤ maxval) (near : Nat) : 2 ≤ traitRange maxval near :=
  Nat.succ_le_succ (Nat.div_pos (by omega) (Nat.succ_pos _))

/-- RANGE errors, dequantised, cover every difference of two samples and NEAR on either side. -/
theorem lt_traitRange_mul (maxval near : Nat) : maxval + 2 * near < traitRange maxval near * (2 * near + 1) :=
  Nat.lt_mul_of_div_lt (Nat.lt_succ_self _) (Nat.succ_pos _)

theorem traitBpp_bounds {maxval : Nat} (h : maxval ≤ 65535) : 2 ≤ traitBpp maxval ∧ traitBpp maxval ≤ 16 :=
  ⟨le_max_left _ _, max_le (by decide) (ceilLog2_le (by omega))⟩

theorem traitQbpp_le_traitBpp (maxval near : Nat) : traitQbpp (traitRange maxval near) ≤ traitBpp maxval :=
  (ceilLog2_mono (traitRange_le maxval near)).trans (le_max_right _ _)

theorem traitLimit_bounds {bpp : Nat} (h : 2 ≤ bpp) (h' : bpp ≤ 16) :
    20 ≤ traitLimit bpp ∧ traitLimit bpp ≤ 64 ∧ bpp + 18 ≤ traitLimit bpp := by
  unfold traitLimit
  omega

theorem initialA_bounds {range : Nat} (h : range ≤ 65536) : 2 ≤ initialA range ∧ initialA range ≤ 1024 := by
  rw [initialA, Nat.shiftRight_eq_div_pow]
  omega

theorem Scan.legal_maxval {p : Scan} (h : p.legal = true) : 1 ≤ p.maxval ∧ p.maxval ≤ 65535 := by
  obtain ⟨-, -, ⟨-, hp⟩, ⟨hpos, hm⟩, -⟩ := p.legal_iff.1 h
  have hpow : 2 ^ p.p ≤ 2 ^ 16 := Nat.pow_le_pow_right (by decide) hp
  omega

/-- Settles O24: the bounds follow from those of MAXVAL, one trait after the other. -/
theorem traitBounds : Obligations.TraitBounds := by
  intro c hlegal p
  obtain ⟨hpos, hmax⟩ := Scan.legal_maxval hlegal
  have hrange : 2 ≤ p.range := two_le_traitRange hpos p.near
  have hrange' : p.range ≤ 65536 := (traitRange_le p.maxval p.near).trans (Nat.succ_le_succ hmax)
  have hlossless : p.near = 0 → p.range = p.maxval + 1 := fun h0 => by
    have h : p.range = traitRange p.maxval p.near := rfl
    rw [h, h0, traitRange_lossless]
  obtain ⟨hbpp, hbpp'⟩ : 2 ≤ p.bpp ∧ p.bpp ≤ 16 := traitBpp_bounds hmax
  have hqbpp : p.qbpp ≤ p.bpp := traitQbpp_le_traitBpp p.maxval p.near
  obtain ⟨hlimit, hlimit', hroom⟩ : 20 ≤ p.limit ∧ p.limit ≤ 64 ∧ p.bpp + 18 ≤ p.limit :=
    traitLimit_bounds hbpp hbpp'
  exact ⟨hrange, hrange', hlossless, ⟨le_two_pow_ceilLog2 _, fun _ => ceilLog2_le⟩, ceilLog2_pos hrange,
    hqbpp.trans hbpp', hbpp, hbpp', hqbpp, hlimit, hlimit', by omega, initialA_bounds hrange'⟩

/-! ## The default thresholds (42_traits_predictor.md R224) -/

theorem thresholdClamp_bounds {maxval j : Nat} (h : j ≤ maxval) (i : Nat) :
    j ≤ thresholdClamp maxval i j ∧ thresholdClamp maxval i j ≤ maxval := by
  unfold thresholdClamp
  split_ifs <;> omega

/-- Three clamps in a row, each with the last threshold as its lower bound, give thresholds in order. -/
theorem thresholdClamp_chain {maxval low : Nat} (h : low ≤ maxval) (i₁ i₂ i₃ : Nat) :
    let t₁ := thresholdClamp maxval i₁ low
    let t₂ := thresholdClamp maxval i₂ t₁
    let t₃ := thresholdClamp maxval i₃ t₂
    low ≤ t₁ ∧ t₁ ≤ t₂ ∧ t₂ ≤ t₃ ∧ t₃ ≤ maxval := by
  intro t₁ t₂ t₃
  obtain ⟨h₁, h₁'⟩ : low ≤ t₁ ∧ t₁ ≤ maxval := thresholdClamp_bounds h i₁
  obtain ⟨h₂, h₂'⟩ : t₁ ≤ t₂ ∧ t₂ ≤ maxval := thresholdClamp_bounds h₁' i₂
  exact ⟨h₁, h₂, thresholdClamp_bounds h₂' i₃⟩

/-- Settles O26: NEAR + 1 is at most MAXVAL, and on both sides of MAXVAL = 128 the thresholds are clamps in a row. -/
theorem defaultThresholdsAreLegal : Obligations.DefaultThresholdsAreLegal := by
  intro maxval near hpos _ hnear t
  have hlow : near + 1 ≤ maxval := by omega
  simp only [t, defaultThresholds]
  split
  · exact thresholdClamp_chain hlow _ _ _
  · exact thresholdClamp_chain hlow _ _ _

/-! ## The gradient quantiser (42_traits_predictor.md R231) -/

/-- The region of a gradient's magnitude. -/
def gradientRegion (p : Scan) (n : Nat) : Nat :=
  if p.t3 ≤ n then 4 else if p.t2 ≤ n then 3 else if p.t1 ≤ n then 2 else if p.near < n then 1 else 0

theorem quantize_natCast {p : Scan} (h1 : p.near + 1 ≤ p.t1) (h12 : p.t1 ≤ p.t2) (h23 : p.t2 ≤ p.t3) (n : Nat) :
    quantize p n = gradientRegion p n := by
  unfold quantize gradientRegion
  split_ifs <;> omega

theorem quantize_neg_natCast (p : Scan) (n : Nat) : quantize p (-n) = -gradientRegion p n := by
  unfold quantize gradientRegion
  split_ifs <;> omega

/-- Settles O27: a gradient is its magnitude or the negation of it, and the quantiser takes the one to the region of
the magnitude and the other to the region's negation. -/
theorem quantiserIsOdd : Obligations.QuantiserIsOdd := by
  intro p d h1 h12 h23
  have hpos := quantize_natCast h1 h12 h23
  have hneg := quantize_neg_natCast p
  obtain ⟨n, rfl | rfl⟩ := d.eq_nat_or_neg
  · rw [hneg, hpos, Int.natAbs_natCast, Int.natAbs_natCast]
    exact ⟨rfl, fun _ => Int.natCast_nonneg _, rfl⟩
  · rw [neg_neg, hneg, hpos, neg_neg, Int.natAbs_neg, Int.natAbs_neg, Int.natAbs_natCast, Int.natAbs_natCast]
    refine ⟨rfl, fun h => ?_, rfl⟩
    obtain rfl : n = 0 := by omega
    have hzero : gradientRegion p 0 = 0 := by
      unfold gradientRegion
      split_ifs <;> omega
    simp [hzero]

/-! ## The context number (42_traits_predictor.md R240, R241) -/

theorem contextSum_neg (q1 q2 q3 : Int) : contextSum (-q1, -q2, -q3) = -contextSum (q1, q2, q3) := by
  simp only [contextSum]
  ring

theorem contextNumber_neg (q1 q2 q3 : Int) : contextNumber (-q1, -q2, -q3) = contextNumber (q1, q2, q3) := by
  rw [contextNumber, contextNumber, contextSum_neg, Int.natAbs_neg]

theorem contextSign_eq_neg_one_iff (q : Int × Int × Int) : contextSign q = -1 ↔ contextSum q < 0 := by
  unfold contextSign
  split_ifs <;> simp_all

theorem contextSign_neg {q1 q2 q3 : Int} (h : contextSum (q1, q2, q3) ≠ 0) :
    contextSign (-q1, -q2, -q3) = -contextSign (q1, q2, q3) := by
  unfold contextSign
  rw [contextSum_neg]
  split_ifs <;> omega

section QuantisedGradients

variable {q1 q2 q3 : Int} (h2 : q2.natAbs ≤ 4) (h3 : q3.natAbs ≤ 4)
include h2 h3

theorem contextNumber_val (h1 : q1.natAbs ≤ 4) :
    (contextNumber (q1, q2, q3)).val = (contextSum (q1, q2, q3)).natAbs := by
  have hle : (contextSum (q1, q2, q3)).natAbs < 365 := by
    simp only [contextSum]
    omega
  exact Nat.mod_eq_of_lt hle

/-- The weights 81, 9 and 1 let no later gradient outweigh an earlier one. -/
theorem contextSum_ne_zero (hrun : runCondition (q1, q2, q3) = false) : contextSum (q1, q2, q3) ≠ 0 := by
  intro hzero
  simp only [contextSum] at hzero
  obtain rfl : q1 = 0 := by omega
  obtain rfl : q2 = 0 := by omega
  obtain rfl : q3 = 0 := by omega
  exact absurd hrun (by decide)

theorem contextSum_neg_iff : contextSum (q1, q2, q3) < 0 ↔ firstNonZeroNegative (q1, q2, q3) = true := by
  simp only [contextSum, firstNonZeroNegative]
  split_ifs <;> simp only [decide_eq_true_eq] <;> omega

end QuantisedGradients

/-- Settles O28: all five claims are read off the sum `81·Q1 + 9·Q2 + Q3`. -/
theorem contextNumberFoldsSigns : Obligations.ContextNumberFoldsSigns := by
  intro q1 q2 q3 h1 h2 h3
  have hval := contextNumber_val h2 h3 h1
  have hne := contextSum_ne_zero (q1 := q1) h2 h3
  exact ⟨hval, fun hrun => hval ▸ Int.natAbs_pos.2 (hne hrun),
    (contextSign_eq_neg_one_iff _).trans (contextSum_neg_iff h2 h3), contextNumber_neg q1 q2 q3,
    fun hrun => contextSign_neg (hne hrun)⟩

/-! ## The median-edge predictor (42_traits_predictor.md R245) -/

theorem med_of_max_le {ra rb rc : Int} (h : max ra rb ≤ rc) : med ra rb rc = min ra rb := if_pos h

theorem med_of_le_min {ra rb rc : Int} (h : rc ≤ min ra rb) : med ra rb rc = max ra rb := by
  unfold med
  split_ifs
  · omega
  · rfl

theorem med_of_between {ra rb rc : Int} (h : min ra rb < rc) (h' : rc < max ra rb) : med ra rb rc = ra + rb - rc := by
  rw [med, if_neg h'.not_ge, if_neg h.not_ge]

/-- Settles O29: the bounds hold in each of the three regions of Rc. -/
theorem medianPredictorLiesBetween : Obligations.MedianPredictorLiesBetween := by
  intro ra rb rc
  refine ⟨med_of_max_le, med_of_le_min, med_of_between, ?_⟩
  rcases le_or_gt (max ra rb) rc with hmax | hmax
  · rw [med_of_max_le hmax]
    omega
  rcases le_or_gt rc (min ra rb) with hmin | hmin
  · rw [med_of_le_min hmin]
    omega
  · rw [med_of_between hmin hmax]
    omega

/-! ## The reconstruction (42_traits_predictor.md R228, 43_regular_mode.md R270) -/

/-- Quantising an error and dequantising it moves it by at most NEAR. -/
theorem dequantize_quantizeError (near : Nat) (e : Int) :
    (dequantize near (quantizeError near e) - e).natAbs ≤ near := by
  set m := (e.natAbs + near) / (2 * near + 1) * (2 * near + 1)
  have hmag : ((m : Int) - e.natAbs).natAbs ≤ near := by
    have hdiv : m + (e.natAbs + near) % (2 * near + 1) = e.natAbs + near := Nat.div_add_mod' _ _
    have hmod : (e.natAbs + near) % (2 * near + 1) < 2 * near + 1 := Nat.mod_lt _ (Nat.succ_pos _)
    omega
  have hfactor : dequantize near (quantizeError near e) - e = e.sign * ((m : Int) - e.natAbs) := by
    rw [mul_sub, Int.sign_mul_natAbs, dequantize, quantizeError, mul_assoc]
    push_cast [m]
    rfl
  rw [hfactor]
  rcases e.sign_trichotomy with h | h | h <;> rw [h] <;> omega

theorem natAbs_quantizeError_lt {maxval : Nat} {e : Int} (near : Nat) (h : e.natAbs ≤ maxval) :
    (quantizeError near e).natAbs < traitRange maxval near := by
  have hclose := dequantize_quantizeError near e
  have hmul : (dequantize near (quantizeError near e)).natAbs = (quantizeError near e).natAbs * (2 * near + 1) :=
    Int.natAbs_mul _ _
  have hrange := lt_traitRange_mul maxval near
  exact Nat.lt_of_mul_lt_mul_right (a := 2 * near + 1) (by omega)

/-- An error less than RANGE away from 0 is moved by RANGE at most once. -/
theorem moduloRange_cases {range : Nat} {e : Int} (h : e.natAbs < range) :
    moduloRange range e = e ∨ moduloRange range e = e + range ∨ moduloRange range e = e - range := by
  have hmod : e % range = e ∨ e % range = e + range := by
    rcases le_or_gt 0 e with hpos | hneg
    · exact .inl (Int.emod_eq_of_lt hpos (by omega))
    · rw [← Int.add_emod_right]
      exact .inr (Int.emod_eq_of_lt (by omega) (by omega))
  unfold moduloRange
  split_ifs <;> omega

theorem clamp_natAbs_le {y x : Int} {near maxval : Nat} (hx : 0 ≤ x) (hx' : x ≤ maxval) (h : (y - x).natAbs ≤ near) :
    (clamp y 0 maxval - x).natAbs ≤ near := by
  unfold clamp
  omega

section Reconstruct

variable {p : Scan} {px e : Int}

theorem reconstruct_of_low (h : px + dequantize p.near e < -(p.near : Int)) :
    reconstruct p px e = clamp (px + dequantize p.near e + p.range * (2 * p.near + 1)) 0 p.maxval := by
  simp only [reconstruct, if_pos h]

theorem reconstruct_of_high (h : -(p.near : Int) ≤ px + dequantize p.near e)
    (h' : p.maxval + p.near < px + dequantize p.near e) :
    reconstruct p px e = clamp (px + dequantize p.near e - p.range * (2 * p.near + 1)) 0 p.maxval := by
  simp only [reconstruct, if_neg h.not_gt, if_pos h']

theorem reconstruct_of_between (h : -(p.near : Int) ≤ px + dequantize p.near e)
    (h' : px + dequantize p.near e ≤ p.maxval + p.near) :
    reconstruct p px e = clamp (px + dequantize p.near e) 0 p.maxval := by
  simp only [reconstruct, if_neg h.not_gt, if_neg h'.not_gt]

/-- The reconstruction does not see RANGE added to an error or taken from it, as long as the dequantised sum is one
that a sample can give: it wraps by the same `RANGE·(2·NEAR + 1)`, which is wider than the interval of those sums. -/
theorem reconstruct_of_wrap {q : Int} (hrange : p.range = traitRange p.maxval p.near)
    (hlow : -(p.near : Int) ≤ px + dequantize p.near q) (hhigh : px + dequantize p.near q ≤ p.maxval + p.near)
    (he : e = q ∨ e = q + p.range ∨ e = q - p.range) :
    reconstruct p px e = clamp (px + dequantize p.near q) 0 p.maxval := by
  have hwide : (p.maxval : Int) + 2 * p.near < p.range * (2 * p.near + 1) := by
    rw [hrange]
    exact_mod_cast lt_traitRange_mul p.maxval p.near
  rcases he with rfl | rfl | rfl
  · exact reconstruct_of_between hlow hhigh
  · have hsum : dequantize p.near (q + p.range) = dequantize p.near q + p.range * (2 * p.near + 1) := add_mul ..
    rw [reconstruct_of_high (by omega) (by omega), hsum, ← add_assoc, add_sub_cancel_right]
  · have hsum : dequantize p.near (q - p.range) = dequantize p.near q - p.range * (2 * p.near + 1) := sub_mul ..
    rw [reconstruct_of_low (by omega), hsum, ← add_sub_assoc, sub_add_cancel]

end Reconstruct

/-- Settles O31: the quantised error gives a sum within NEAR of the sample, the fold moves it by RANGE at most once, and
the clamp moves no sum away from a sample. -/
theorem reconstructionIsWithinNear : Obligations.ReconstructionIsWithinNear := by
  intro c px x _ hpx hpx' hx hx'
  generalize hp : latch c = p at hpx' hx' ⊢
  have hrange : p.range = traitRange p.maxval p.near := hp ▸ rfl
  have hclose := dequantize_quantizeError p.near (x - px)
  have hlt : (quantizeError p.near (x - px)).natAbs < p.range :=
    hrange ▸ natAbs_quantizeError_lt p.near (by omega)
  rw [computeErrorValue, reconstruct_of_wrap hrange (by omega) (by omega) (moduloRange_cases hlt)]
  exact clamp_natAbs_le hx hx' (by omega)

end Sys2Proof.Machine
end

section
/-! # Regular mode

The Golomb parameter (43_regular_mode.md R261), the error of a code word (R263, R264), the update of a context (R266 to
R268), the sample it is made for (R260, R265, R270, R271), and the two writes into a row. -/

namespace Sys2Proof.Machine

/-! ## The Golomb parameter (R261) -/

/-- The loop answers the least parameter that is large enough, when its turns reach one and none before its start is. -/
theorem golombKLoop_least {n a : Nat} (turns : Nat) {k : Nat} (hend : a ≤ n * 2 ^ (k + turns))
    (hbefore : ∀ j < k, n * 2 ^ j < a) :
    a ≤ n * 2 ^ golombKLoop n a turns k ∧ ∀ j < golombKLoop n a turns k, n * 2 ^ j < a := by
  induction turns generalizing k with
  | zero => exact ⟨hend, hbefore⟩
  | succ turns ih =>
    simp only [golombKLoop, Nat.shiftLeft_eq]
    split
    · next hlt =>
      refine ih (by rwa [Nat.add_assoc, Nat.add_comm 1]) fun j hj => ?_
      obtain hj | rfl := Nat.lt_succ_iff_lt_or_eq.1 hj
      · exact hbefore j hj
      · exact hlt
    · next hle => exact ⟨Nat.not_lt.1 hle, hbefore⟩

/-- Settles O16: the loop's turns reach `log2 A + 1`, which is large enough for every N, and 24 is for A below
ACC_LIMIT. -/
theorem golombParameterIsLeast : Obligations.GolombParameterIsLeast := by
  intro n a hn
  have hend : a ≤ n * 2 ^ (0 + (a.log2 + 1)) := by
    rw [Nat.zero_add]
    exact Nat.lt_log2_self.le.trans (Nat.le_mul_of_pos_left _ hn)
  obtain ⟨hlarge, hleast⟩ := golombKLoop_least _ hend nofun
  exact ⟨hlarge, hleast, fun ha => golombK_le (by omega)⟩

/-! ## The error of a code word (R263, R264) -/

/-- `Unmap` inverts the fold of an error onto the naturals. -/
theorem unmap_eq_iff {m : Nat} {e : Int} : unmap m = e ↔ (m : Int) = if 0 ≤ e then 2 * e else -2 * e - 1 := by
  simp only [unmap, Nat.shiftRight_one]
  split_ifs <;> omega

/-- The error of a code word is the one that the standard maps to its MErrval: the swap complements the error on both
sides. -/
theorem regularError_eq_iff {near k : Nat} {ctx : RegCtx} {m : Nat} {e : Int} :
    regularError near k ctx m = e ↔ (m : Int) = regularMap near k ctx e := by
  unfold regularError regularMap
  cases biasFlips near k ctx with
  | false => exact unmap_eq_iff
  | true =>
    have hcomplement : -unmap m - 1 = e ↔ unmap m = -e - 1 := by omega
    simp only [if_true, hcomplement, unmap_eq_iff]
    split_ifs <;> omega

theorem regularMap_nonneg (near k : Nat) (ctx : RegCtx) (e : Int) : 0 ≤ regularMap near k ctx e := by
  unfold regularMap
  split_ifs <;> omega

/-- Settles O17: both inverses are `regularError_eq_iff`. -/
theorem regularErrorInvertsMapping : Obligations.RegularErrorInvertsMapping := by
  intro near k ctx
  refine ⟨fun e => ?_, fun m => (regularError_eq_iff.1 rfl).symm⟩
  have hnonneg := regularMap_nonneg near k ctx e
  exact ⟨hnonneg, regularError_eq_iff.2 (Int.toNat_of_nonneg hnonneg)⟩

/-! ## The bias cancellation (R267) -/

theorem biasCancel_of_le_neg {b c : Int} {n : Nat} (h : b ≤ -(n : Int)) (hc : -128 ≤ c) :
    biasCancel b c n = (max (b + n) (-(n : Int) + 1), max (c - 1) (-128)) := by
  rw [biasCancel, if_pos h, Prod.mk.injEq]
  split_ifs <;> omega

theorem biasCancel_of_pos {b c : Int} {n : Nat} (h : 0 < b) (hc : c ≤ 127) :
    biasCancel b c n = (min (b - n) 0, min (c + 1) 127) := by
  have hlow : ¬b ≤ -(n : Int) := by omega
  rw [biasCancel, if_neg hlow, if_pos h, Prod.mk.injEq]
  split_ifs <;> omega

theorem biasCancel_of_mem {b c : Int} {n : Nat} (h : -(n : Int) < b) (h' : b ≤ 0) : biasCancel b c n = (b, c) := by
  rw [biasCancel, if_neg h.not_ge, if_neg h'.not_gt]

/-- Settles O18: the bounds are those of every bias cancellation, and each region of B has its equation. -/
theorem biasCancelForcesRange : Obligations.BiasCancelForcesRange := by
  intro b c n hn hc hc'
  obtain ⟨hB, hC⟩ := biasCancel_bounds b c n hn ⟨hc, hc'⟩
  exact ⟨hB, hC, fun h => biasCancel_of_le_neg h hc, fun h => biasCancel_of_pos h hc', biasCancel_of_mem⟩

/-! ## The update of a context (R266, R268) -/

/-- The shift of `renormalise` is a floor, as R266 reads it. -/
theorem shiftRight_one_eq_fdiv (b : Int) : b >>> (1 : Int) = b.fdiv 2 :=
  calc b >>> (1 : Int) = b >>> (1 : Nat) := Int.shiftRight_natCast_right b 1
    _ = b / 2 := Int.shiftRight_eq_div_pow b 1
    _ = b.fdiv 2 := (Int.fdiv_eq_ediv_of_nonneg b (by decide)).symm

theorem renormalise_of_eq {reset n : Nat} (h : n = reset) (a : Nat) (b : Int) :
    renormalise reset a b n = (a / 2, b.fdiv 2, n / 2 + 1) := by
  rw [renormalise, if_pos h, shiftRight_one_eq_fdiv, Nat.shiftRight_one, Nat.shiftRight_one]

theorem renormalise_of_ne {reset n : Nat} (h : n ≠ reset) (a : Nat) (b : Int) :
    renormalise reset a b n = (a, b, n + 1) := if_neg h

/-- Settles O20: the renormalisation on each side of `N = RESET`; the rest of the update is the definition. -/
theorem regularUpdateOrder : Obligations.RegularUpdateOrder := by
  intro p ctx e a b
  constructor
  · intro h
    rw [updateRegular, renormalise_of_eq h]
    rfl
  · intro h
    rw [updateRegular, renormalise_of_ne h]
    rfl

theorem regularSumsFit_iff {near : Nat} {ctx : RegCtx} {e : Int} :
    regularSumsFit near ctx e = true ↔
      ctx.a + e.natAbs < 2 ^ 24 ∧ (ctx.b + e * (2 * near + 1)).natAbs < 2 ^ 24 := by
  simp only [regularSumsFit, Bool.and_eq_true, decide_eq_true_eq]
  rfl

theorem updateRegular_n (p : Scan) (ctx : RegCtx) (e : Int) :
    (updateRegular p ctx e).n = if ctx.n = p.reset then ctx.n / 2 + 1 else ctx.n + 1 := by
  by_cases h : ctx.n = p.reset
  · simp only [updateRegular, renormalise_of_eq h, if_pos h]
  · simp only [updateRegular, renormalise_of_ne h, if_neg h]

theorem updateRi_n (reset : Nat) (t : Fin 2) (ctx : RiCtx) (em : Nat) (e : Int) :
    (updateRi reset t ctx em e).n = if ctx.n = reset then ctx.n / 2 + 1 else ctx.n + 1 := by
  simp only [updateRi, apply_ite RiCtx.n, Nat.shiftRight_one]

/-- With RESET at least 3, even the halved N leaves at least 2 after the increment. -/
theorem two_le_updated_n {reset n : Nat} (hreset : 3 ≤ reset) (hn : 1 ≤ n) :
    2 ≤ if n = reset then n / 2 + 1 else n + 1 := by
  split_ifs <;> omega

/-- Settles O19: the bounds are kept by `regCtxOk_updateRegular` and `riCtxOk_updateRi`, and both kinds of context
count N alike. -/
theorem contextUpdatesKeepBounds : Obligations.ContextUpdatesKeepBounds := by
  constructor
  · intro p ctx e hreset hok hA hB
    have ⟨_, _, _, hn, _⟩ := hok
    exact ⟨regCtxOk_updateRegular hok (regularSumsFit_iff.2 ⟨hA, hB⟩),
      updateRegular_n p ctx e ▸ two_le_updated_n hreset hn⟩
  · intro reset t ctx em e hreset hok hfit
    have ⟨_, _, hn, _⟩ := hok
    exact ⟨riCtxOk_updateRi hok hfit, updateRi_n reset t ctx em e ▸ two_le_updated_n hreset hn⟩

/-! ## A regular sample, an interruption sample (R260, R265; 44_run_mode.md R315, R320) -/

section Steps

variable {s : State} {merr em : Nat} {e : Int}

theorem regularStep_of_fit (he : e = regularError s.scan.near s.regularK s.regularCtx merr) (hle : e.natAbs ≤ 65535)
    (hA : s.regularCtx.a + e.natAbs < 2 ^ 24)
    (hB : (s.regularCtx.b + e * (2 * s.scan.near + 1)).natAbs < 2 ^ 24) :
    regularStep merr s = regularWrite e s := by
  subst he
  simp only [regularStep, if_neg hle.not_gt, if_pos (regularSumsFit_iff.2 ⟨hA, hB⟩)]

theorem regularStep_raises (he : e = regularError s.scan.near s.regularK s.regularCtx merr)
    (h : 65535 < e.natAbs ∨ 2 ^ 24 ≤ s.regularCtx.a + e.natAbs ∨
      2 ^ 24 ≤ (s.regularCtx.b + e * (2 * s.scan.near + 1)).natAbs) :
    regularStep merr s = raiseError .invalidCompressedData s := by
  subst he
  simp only [regularStep]
  rcases h with hlarge | hsum
  · rw [if_pos hlarge]
  · rw [← not_lt, ← not_lt, ← not_and_or, ← regularSumsFit_iff] at hsum
    rw [if_neg hsum, ite_self]

theorem riStep_raises (h : 65535 < (riError s.riK s.riType s.riCtx em).natAbs ∨
    2 ^ 24 ≤ s.riCtx.a + (em + 1 - s.riType.val) / 2) : riStep em s = raiseError .invalidCompressedData s := by
  simp only [riStep]
  rcases h with hlarge | hsum
  · rw [if_pos hlarge]
  · rw [← Nat.shiftRight_one] at hsum
    have hfit : ¬riSum s.riType s.riCtx em < Config.accLimit := hsum.not_gt
    rw [if_neg hfit, ite_self]

end Steps

theorem exec_reg (q r : Nat) (s : State) :
    exec (.reg q r) s = .next (regularStep (golombValue s.regularK q r) s) := rfl

theorem exec_esc (q v : Nat) (s : State) : exec (.esc q v) s = .next (regularStep (v + 1) s) := rfl

theorem exec_ri (q r : Nat) (s : State) : exec (.ri q r) s = .next (riStep (golombValue s.riK q r) s) := rfl

theorem exec_riesc (q v : Nat) (s : State) : exec (.riesc q v) s = .next (riStep (v + 1) s) := rfl

theorem golombValue_eq_add {k r : Nat} (q : Nat) (h : r < 2 ^ k) : golombValue k q r = q * 2 ^ k + r := by
  rw [golombValue, ← Nat.shiftLeft_add_eq_or_of_lt h, Nat.shiftLeft_eq]

/-- Settles O21: both instructions are a regular step with their MErrval, which writes the sample when its sums fit. -/
theorem regularSampleCompletes : Obligations.RegularSampleCompletes := by
  intro i q r merr s hi n g ctx k e px hle hA hB
  have hwrite : regularStep merr s = regularWrite e s := regularStep_of_fit rfl hle hA hB
  have hexec : exec i s = .next (regularStep merr s) := by
    rcases hi with ⟨rfl, hr, rfl⟩ | ⟨rfl, rfl⟩
    · rw [exec_reg, State.regularK, golombValue_eq_add q hr]
    · rw [exec_esc]
  rw [hexec, hwrite]
  rfl

/-- Settles O22: each of the four instructions is a step that raises, with its MErrval or EMErrval. -/
theorem sampleBoundsRaise : Obligations.SampleBoundsRaise := by
  intro i q r s err merr em e
  constructor
  · intro hi h
    have hraise : regularStep merr s = err := regularStep_raises rfl h
    rcases hi with rfl | rfl
    · rw [exec_reg, ← hraise]
    · rw [exec_esc, ← hraise]
  · intro hi h
    have hraise : riStep em s = err := riStep_raises h
    rcases hi with rfl | rfl
    · rw [exec_ri, ← hraise]
    · rw [exec_riesc, ← hraise]

/-! ## The two writes into a row (R271, 44_run_mode.md R303) -/

theorem sampleAt_set (row : List Nat) (i j v : Nat) :
    sampleAt (row.set i v) j = if j = i ∧ i < row.length then v else sampleAt row j := by
  split_ifs with h
  · obtain ⟨rfl, hlt⟩ := h
    exact sampleAt_set_self row j v hlt
  · by_cases hj : j = i
    · rw [List.set_eq_of_length_le (by omega)]
    · exact sampleAt_set_of_ne row i j v hj

theorem length_fillRow (row : List Nat) (start n v : Nat) : (fillRow row start n v).length = row.length := by
  induction n generalizing row start with
  | zero => rfl
  | succ n ih => rw [fillRow, ih, List.length_set]

/-- The first write is the column `start`, the others those after it. -/
theorem sampleAt_fillRow (row : List Nat) (start n v i : Nat) :
    sampleAt (fillRow row start n v) i =
      if start ≤ i ∧ i < start + n ∧ i < row.length then v else sampleAt row i := by
  induction n generalizing row start with
  | zero =>
    rw [if_neg (by omega)]
    rfl
  | succ n ih =>
    rw [fillRow, ih, sampleAt_set, List.length_set]
    by_cases hi : i = start
    · subst hi
      have hfirst : ¬i + 1 ≤ i := Nat.not_succ_le_self i
      simp [hfirst]
    · have hrest : (start + 1 ≤ i ∧ i < start + 1 + n ∧ i < row.length) ↔
          (start ≤ i ∧ i < start + (n + 1) ∧ i < row.length) := by omega
      simp only [hrest, hi, false_and, if_false]

/-- Settles O23: reading back the row of the component, and `sampleAt_fillRow`. -/
theorem rowWritesTouchTheirColumns : Obligations.RowWritesTouchTheirColumns := by
  refine ⟨fun s v hx => ?_, fun row start n v i => ⟨length_fillRow .., sampleAt_fillRow ..⟩⟩
  intro t
  have hcur : t.line.cur = s.line.cur.set (s.x + 1) v := by simp [t]
  rw [hcur]
  exact ⟨sampleAt_set_self _ _ _ hx, by simp [t], by simp [t], rfl, fun i hi => sampleAt_set_of_ne _ _ _ _ hi,
    fun c hc => PerComp.get_set_of_ne _ _ _ _ hc⟩

/-! ## The reconstruction without loss (R270) -/

theorem clamp_bounds {lo hi : Int} (h : lo ≤ hi) (v : Int) : lo ≤ clamp v lo hi ∧ clamp v lo hi ≤ hi := by
  unfold clamp
  omega

theorem clamp_of_mem {v lo hi : Int} (h : lo ≤ v) (h' : v ≤ hi) : clamp v lo hi = v := by
  rw [clamp, max_eq_left h, min_eq_left h']

theorem reconstruct_bounds (p : Scan) (px e : Int) : 0 ≤ reconstruct p px e ∧ reconstruct p px e ≤ p.maxval :=
  clamp_bounds (Int.natCast_nonneg _) _

theorem dequantize_zero (e : Int) : dequantize 0 e = e := by simp [dequantize]

/-- Settles O30: below 0, above MAXVAL and between them, the sum wraps to the representative in `[0, RANGE)`. -/
theorem losslessReconstructionIsModular : Obligations.LosslessReconstructionIsModular := by
  intro p px e
  refine ⟨reconstruct_bounds p px e, fun hnear hrange hlow hhigh => ?_⟩
  have hsum : px + dequantize p.near e = px + e := by rw [hnear, dequantize_zero]
  have hwrap : (p.range : Int) * (2 * p.near + 1) = p.range := by simp [hnear]
  rcases lt_or_ge (px + e) 0 with hneg | hpos
  · rw [reconstruct_of_low (by omega), hsum, hwrap, clamp_of_mem (by omega) (by omega), ← Int.add_emod_right,
      Int.emod_eq_of_lt (by omega) (by omega)]
  rcases lt_or_ge (p.maxval : Int) (px + e) with hbig | hsmall
  · rw [reconstruct_of_high (by omega) (by omega), hsum, hwrap, clamp_of_mem (by omega) (by omega),
      ← Int.sub_emod_right, Int.emod_eq_of_lt (by omega) (by omega)]
  · rw [reconstruct_of_between (by omega) (by omega), hsum, clamp_of_mem hpos hsmall,
      Int.emod_eq_of_lt hpos (by omega)]

end Sys2Proof.Machine
end

section
/-! # Run stop and run interruption

The end of a run (44_run_mode.md R301, R305, R306, R319), and the interruption sample: its type, prediction and sign
(R310, R312), its error (R314), its update and its writes (R311, R313, R316, R318 to R320). -/

namespace Sys2Proof.Machine

/-! ## RUN0 (R301, R305, R306, R319) -/

theorem exec_run0 (t : Nat) (s : State) : exec (.run0 t) s = execRun0 t s := rfl

/-- Settles O33: each outcome of `execRun0_cases` answers one clause, and its premises exclude the other two. -/
theorem runStopEndsRun : Obligations.RunStopEndsRun := by
  intro t s hx
  have hrem : s.remaining = s.scan.width - s.x := rfl
  rw [exec_run0]
  rcases execRun0_cases t s with ⟨hover, h⟩ | ⟨hfit, hshort, h⟩ | ⟨hfit, hend, h⟩
  · exact ⟨fun _ => by omega, fun _ => by omega, fun _ => h⟩
  · exact ⟨fun _ => h, fun _ => by omega, fun _ => by omega⟩
  · exact ⟨fun _ => by omega, fun _ => h, fun _ => by omega⟩

/-! ## Type, prediction and sign (R310, R312) -/

theorem riType_of_near {p : Scan} {n : Neighbours} (h : (n.ra - n.rb).natAbs ≤ p.near) : riType p n = 1 :=
  if_pos (decide_eq_true h)

theorem riType_of_far {p : Scan} {n : Neighbours} (h : p.near < (n.ra - n.rb).natAbs) : riType p n = 0 := by
  have hfar : isNear p.near n.ra n.rb = false := decide_eq_false h.not_ge
  rw [riType, hfar]
  rfl

theorem riSign_one (n : Neighbours) : riSign 1 n = 1 := rfl

theorem riSign_zero (n : Neighbours) : riSign 0 n = if n.rb < n.ra then -1 else 1 := by
  simp only [riSign, true_and]

/-- Settles O34: type 1 copies Ra without a sign, type 0 copies Rb and takes the sign of the edge. -/
theorem interruptionPredictionAndSign : Obligations.InterruptionPredictionAndSign := by
  intro p n
  refine ⟨fun h => ⟨riType_of_near h, rfl, riSign_one n⟩, fun h => ⟨riType_of_far h, rfl, fun hlt => ?_, fun hle => ?_⟩⟩
  · rw [riSign_zero, if_pos hlt]
  · rw [riSign_zero, if_neg hle.not_gt]

/-! ## The error of a code word (R314) -/

/-- The side of 0 that the mapping favours: then an odd operand sum stands for a negative error and an even one for a
positive error, otherwise the other way round. -/
def riFavoursNegative (k : Nat) (ctx : RiCtx) : Bool := decide (k ≠ 0) || decide (ctx.n ≤ 2 * ctx.nn)

theorem riMap_of_favours {k : Nat} {ctx : RiCtx} (h : riFavoursNegative k ctx = true) (e : Int) :
    riMap k ctx e = if e < 0 then 1 else 0 := by
  have hcond : k ≠ 0 ∨ ctx.n ≤ 2 * ctx.nn := by simpa [riFavoursNegative] using h
  exact if_congr (by omega) rfl rfl

theorem riMap_of_not_favours {k : Nat} {ctx : RiCtx} (h : riFavoursNegative k ctx = false) (e : Int) :
    riMap k ctx e = if 0 < e then 1 else 0 := by
  have hcond : k = 0 ∧ 2 * ctx.nn < ctx.n := by simpa [riFavoursNegative] using h
  exact if_congr (by omega) rfl rfl

theorem riMap_le_one (k : Nat) (ctx : RiCtx) (e : Int) : riMap k ctx e ≤ 1 := by
  unfold riMap
  split_ifs <;> decide

/-- The `map` bit tells the sign of an error other than 0. -/
theorem favours_eq_riMap_iff {k : Nat} {ctx : RiCtx} {e : Int} (he : e ≠ 0) :
    riFavoursNegative k ctx = decide (riMap k ctx e = 1) ↔ e < 0 := by
  cases h : riFavoursNegative k ctx with
  | true => simp [riMap_of_favours h]
  | false => simpa [riMap_of_not_favours h] using he.le_iff_lt

/-- The assembly takes a sum `2·mag - m` apart: `mag` is the magnitude, and the parity `m` gives the sign. -/
theorem riError_of_sum {k em mag m : Nat} {t : Fin 2} (ctx : RiCtx) (hm : m ≤ 1) (h : em + t.val + m = 2 * mag) :
    riError k t ctx em = if riFavoursNegative k ctx = decide (m = 1) then -(mag : Int) else mag := by
  obtain rfl : m = (em + t.val) % 2 := by omega
  have hmag : mag = (em + t.val + (em + t.val) % 2) >>> 1 := by
    rw [Nat.shiftRight_one]
    omega
  rw [hmag]
  rfl

/-- Settles O35: the operand sum is `2·|Errval| - map`, and the `map` bit is its parity. -/
theorem interruptionErrorInvertsMapping : Obligations.InterruptionErrorInvertsMapping := by
  intro k t ctx e em h
  have hmap := riMap_le_one k ctx e
  rw [riError_of_sum (mag := e.natAbs) ctx hmap (by omega)]
  by_cases he : e = 0
  · rw [he, Int.natAbs_zero, Int.natCast_zero, neg_zero, ite_self]
  · rw [if_congr (favours_eq_riMap_iff he) rfl rfl]
    split_ifs <;> omega

/-! ## The interruption sample (R311, R313, R316, R318 to R320) -/

/-- The shifts of the update are the halvings of R316. -/
theorem updateRi_eq (reset : Nat) (t : Fin 2) (ctx : RiCtx) (em : Nat) (e : Int) :
    updateRi reset t ctx em e =
      let a := ctx.a + (em + 1 - t.val) / 2
      let nn := if e < 0 then ctx.nn + 1 else ctx.nn
      if ctx.n = reset then { a := a / 2, b := ctx.b, n := ctx.n / 2 + 1, nn := nn / 2 }
      else { a := a, b := ctx.b, n := ctx.n + 1, nn := nn } := by
  have hnn : ctx.nn + (if e < 0 then 1 else 0) = if e < 0 then ctx.nn + 1 else ctx.nn := by split <;> rfl
  simp only [updateRi, riSum, Nat.shiftRight_one, hnn]

theorem riK_eq (s : State) : s.riK = golombK s.riCtx.n (s.riCtx.a + s.riCtx.n / 2 * s.riType.val) := by
  rw [State.riK, riGolombK, Nat.shiftRight_one]

theorem riStep_of_fit {s : State} {em : Nat} {e : Int} (he : e = riError s.riK s.riType s.riCtx em)
    (hle : e.natAbs ≤ 65535) (hA : s.riCtx.a + (em + 1 - s.riType.val) / 2 < 2 ^ 24) :
    riStep em s = riWrite em e s := by
  subst he
  rw [← Nat.shiftRight_one] at hA
  have hfit : riSum s.riType s.riCtx em < Config.accLimit := hA
  simp only [riStep, if_neg hle.not_gt, if_pos hfit]

/-- Settles O36: both instructions are an interruption step with their EMErrval, which writes the sample when its sum
fits. -/
theorem interruptionSampleCompletes : Obligations.InterruptionSampleCompletes := by
  intro i q r em s n t ctx k hi e a nn hle hA
  have hk : s.riK = k := riK_eq s
  have hwrite : riStep em s = riWrite em e s := riStep_of_fit (by rw [hk]; rfl) hle hA
  have hexec : exec i s = .next (riStep em s) := by
    rcases hi with ⟨rfl, hr, rfl⟩ | ⟨rfl, rfl⟩
    · rw [exec_ri, hk, golombValue_eq_add q hr]
    · rw [exec_riesc]
  rw [hexec, hwrite, riWrite, updateRi_eq]
  rfl

end Sys2Proof.Machine
end

section
/-! # The scan controller and the line sink

What each transition that reads no bits does to the rows and to the controller (45_scan_control.md R341, R345, R346),
the delivery of a line (R348, R351, R352), and a step as the code words it runs (R345; 44_run_mode.md R301). -/

namespace Sys2Proof.Machine

/-! ## A step with no pending host move is a transition of the block -/

section Transitions
variable {s : State}

theorem step_of_no_host (hh : s.host = []) : step s = blockStep exec s := by
  simp only [step, stepWith, hh]

theorem blockStep_of_lineStart (hf : s.fsm = .lineStart) : blockStep exec s = .next (lineStart s) := by
  simp only [blockStep, hf]

theorem blockStep_of_classify (hf : s.fsm = .classify) : blockStep exec s = .next (classify s) := by
  simp only [blockStep, hf]

theorem blockStep_of_lineEnd (hf : s.fsm = .lineEnd) : blockStep exec s = .next (lineEnd s) := by
  simp only [blockStep, hf]

theorem blockStep_of_runScan (hf : s.fsm = .runScan) :
    blockStep exec s = runScanLoop exec (s.remaining + 1) (s.setRunCnt 0) := by
  simp only [blockStep, hf]

/-- Outside RUN_SCAN a state that reads bits reads one code word. -/
theorem blockStep_of_codeContext {c : ParseCtx} (hc : codeContext s = some c) (hf : s.fsm ≠ .runScan) :
    blockStep exec s = runCode exec c s := by
  unfold codeContext at hc
  split at hc <;> rename_i hfsm
  · cases hc; simp only [blockStep, hfsm]
  · exact absurd hfsm hf
  · cases hc; simp only [blockStep, hfsm]
  · cases hc; simp only [blockStep, hfsm]
  · cases hc

end Transitions

/-! ## The delivered row (R351) -/

/-- In a concatenation of lists of one length `w`, entry `x` of list `i` stands at `i·w + x`. -/
theorem getElem?_flatMap_of_length {α β : Type} {f : α → List β} {w x : Nat} (hx : x < w) (l : List α)
    (hf : ∀ a ∈ l, (f a).length = w) (i : Nat) : (l.flatMap f)[i * w + x]? = l[i]?.bind fun a => (f a)[x]? := by
  induction l generalizing i with
  | nil => rfl
  | cons a l ih =>
    have ha : (f a).length = w := hf a List.mem_cons_self
    rw [List.flatMap_cons]
    cases i with
    | zero =>
      rw [List.getElem?_append_left (by omega), Nat.zero_mul, Nat.zero_add]
      rfl
    | succ i =>
      have hi : (i + 1) * w + x - w = i * w + x := by rw [Nat.succ_mul]; omega
      rw [List.getElem?_append_right (by rw [Nat.succ_mul]; omega), ha, hi,
        ih (fun b hb => hf b (List.mem_cons_of_mem a hb))]
      rfl

theorem PerComp.getElem?_below {α : Type} (v : PerComp α) {n : Nat} (c : Fin Config.compMax) (hc : c.val < n) :
    (v.below n)[c.val]? = some (v.get c) := by
  rw [PerComp.below, List.getElem?_take_of_lt hc]
  fin_cases c <;> rfl

theorem PerComp.length_below {α : Type} (v : PerComp α) {n : Nat} (hn : n ≤ 4) : (v.below n).length = n :=
  List.length_take_of_le hn

theorem PerComp.exists_get_of_mem_below {α : Type} {v : PerComp α} {n : Nat} {a : α} (ha : a ∈ v.below n) :
    ∃ c, a = v.get c := by
  have hmem : a ∈ [v.c0, v.c1, v.c2, v.c3] := List.mem_of_mem_take ha
  simp only [List.mem_cons, List.not_mem_nil, or_false] at hmem
  rcases hmem with h | h | h | h
  · exact ⟨0, h⟩
  · exact ⟨1, h⟩
  · exact ⟨2, h⟩
  · exact ⟨3, h⟩

/-- What `Deliver` takes of a row: its columns 0 to WIDTH - 1, without the two border samples. -/
theorem RowOk.length_columns {p : Scan} {row : List Nat} (h : RowOk p row) :
    ((row.drop 1).take p.width).length = p.width := by
  obtain ⟨hlen, -⟩ := h
  rw [List.length_take, List.length_drop, hlen]
  omega

theorem RowOk.getElem?_columns {p : Scan} {row : List Nat} (h : RowOk p row) {x : Nat} (hx : x < p.width) :
    ((row.drop 1).take p.width)[x]? = some (sampleAt row (x + 1)) := by
  obtain ⟨hlen, -⟩ := h
  have hi : x + 1 < row.length := by omega
  rw [List.getElem?_take_of_lt hx, List.getElem?_drop, Nat.add_comm 1 x, sampleAt, List.getElem?_eq_getElem hi,
    List.getD_eq_getElem _ _ hi]

/-- Settles O45: the row is a concatenation of one list of WIDTH columns for each component of the scan. -/
theorem deliveredRowLayout : Obligations.DeliveredRowLayout := by
  intro s c x hs hbusy hcomps hc hx
  have hcur (d : Fin Config.compMax) : RowOk s.scan (s.lb.get d).cur := (lineOk_iff.1 (hs hbusy d)).1
  have hlen : ∀ b ∈ s.lb.below s.scan.comps, ((b.cur.drop 1).take s.scan.width).length = s.scan.width := by
    intro b hb
    obtain ⟨d, rfl⟩ := PerComp.exists_get_of_mem_below hb
    exact (hcur d).length_columns
  constructor
  · rw [deliveredRow, getElem?_flatMap_of_length hx _ hlen, PerComp.getElem?_below _ c hc]
    exact (hcur c).getElem?_columns hx
  · rw [deliveredRow, List.length_flatMap, List.map_congr_left hlen, List.map_const', List.sum_replicate,
      PerComp.length_below _ hcomps, smul_eq_mul]

/-! ## LINE_END (R345, R348, R351) -/

theorem lineEnd_of_more_components {s : State} (hc : s.comp.val + 1 < s.scan.comps) :
    lineEnd s = { s with comp := s.comp + 1, fsm := .lineStart } := if_pos hc

theorem lineEnd_of_ok {s : State} (hc : s.scan.comps ≤ s.comp.val + 1) (hreply : nextReply s.sinkReplies = .ok) :
    lineEnd s = nextLine (callSink s) := by
  simp only [lineEnd, if_neg hc.not_gt, hreply]

theorem lineEnd_of_tooSmall {s : State} (hc : s.scan.comps ≤ s.comp.val + 1)
    (hreply : nextReply s.sinkReplies = .tooSmall) :
    lineEnd s = raiseError .destinationBufferTooSmall (callSink s) := by
  simp only [lineEnd, if_neg hc.not_gt, hreply]

/-- LINE_END goes to the next component without a call, or follows the sink's answer. -/
theorem lineEnd_cases (s : State) :
    lineEnd s = { s with comp := s.comp + 1, fsm := .lineStart } ∨
      (nextReply s.sinkReplies = .ok ∧ lineEnd s = nextLine (callSink s)) ∨
      (nextReply s.sinkReplies = .tooSmall ∧ lineEnd s = raiseError .destinationBufferTooSmall (callSink s)) := by
  rcases lt_or_ge (s.comp.val + 1) s.scan.comps with hc | hc
  · exact .inl (lineEnd_of_more_components hc)
  · cases hreply : nextReply s.sinkReplies with
    | ok => exact .inr (.inl ⟨rfl, lineEnd_of_ok hc hreply⟩)
    | tooSmall => exact .inr (.inr ⟨rfl, lineEnd_of_tooSmall hc hreply⟩)

theorem nextReply_eq_ok {replies : List SinkReply} (h : replies.head? ≠ some .tooSmall) : nextReply replies = .ok := by
  match replies, h with
  | [], _ => rfl
  | .ok :: _, _ => rfl
  | .tooSmall :: _, h => exact absurd rfl h

/-- Settles O44: the next component's line, or the call of the sink and one of its two answers. -/
theorem lineEndDelivers : Obligations.LineEndDelivers := by
  intro s hh hf call
  have hstep : step s = .next (lineEnd s) := (step_of_no_host hh).trans (blockStep_of_lineEnd hf)
  rw [hstep]
  refine ⟨fun hc => ?_, fun hc => ⟨fun rest hrest => ?_, fun hhead => ?_⟩⟩
  · rw [lineEnd_of_more_components hc]
  · have hreply : nextReply s.sinkReplies = .tooSmall := by rw [hrest]; rfl
    rw [lineEnd_of_tooSmall hc hreply, raiseError, callSink, hreply, hrest]
    rfl
  · have hreply := nextReply_eq_ok hhead
    rw [lineEnd_of_ok hc hreply, nextLine, callSink, hreply]

/-- Only LINE_END calls the sink. -/
theorem BlockMove.delivered {s t : State} (h : BlockMove s t) : t.delivered = s.delivered ∨ s.fsm = .lineEnd := by
  cases h with
  | run t hf ht =>
    exact .inl (runMoves_keep (Q := fun u => u.delivered = s.delivered) (fun u v huv hu => by cases huv <;> exact hu)
      ht rfl)
  | lineAccepted hf => exact .inr hf
  | lineRefused hf => exact .inr hf
  | _ => exact .inl rfl

/-- Settles O49: no host move calls the sink, and of the transitions of the block only LINE_END does. -/
theorem linesAreDeliveredOneAtATime : Obligations.LinesAreDeliveredOneAtATime := by
  intro s t h
  rcases step_cases h with ⟨num, v, rest, -, ⟨-, h⟩ | rfl⟩ | ⟨num, rest, -, rfl⟩ | ⟨i, b, rest, -, -, rfl⟩ |
    ⟨rest, -, rfl⟩ | ⟨-, h⟩
  · rw [execCtrlStart_frame h]
    exact .inl rfl
  · exact .inl rfl
  · exact .inl rfl
  · exact .inl rfl
  · exact .inl rfl
  · rcases (blockStep_move h).delivered with hd | hf
    · exact .inl hd
    · cases (blockStep_of_lineEnd hf).symm.trans h
      rcases lineEnd_cases s.popHost with h' | ⟨hreply, h'⟩ | ⟨hreply, h'⟩ <;> rw [h']
      · exact .inl rfl
      · exact .inr ⟨hf, _, rfl, rfl, rfl, rfl, rfl, .inl ⟨hreply, rfl, rfl⟩⟩
      · exact .inr ⟨hf, _, rfl, rfl, rfl, rfl, rfl, .inr ⟨hreply, rfl, rfl, rfl⟩⟩

/-! ## CLASSIFY (R345, R346) -/

theorem runCondition_iff (q : Int × Int × Int) : runCondition q = true ↔ q = (0, 0, 0) := by
  simp only [runCondition, Bool.and_eq_true, beq_iff_eq, Prod.ext_iff, and_assoc]

/-- Settles O43: the two tests of CLASSIFY, the run condition as three zero gradients. -/
theorem classifyChoosesMode : Obligations.ClassifyChoosesMode := by
  intro s hh hf q
  have hstep : step s = .next (classify s) := (step_of_no_host hh).trans (blockStep_of_classify hf)
  have hrun : runCondition s.gradients = true ↔ q = (0, 0, 0) := runCondition_iff q
  rw [hstep, classify]
  refine ⟨fun hx => ?_, fun hx hq => ?_, fun hx hq => ?_⟩
  · rw [if_pos hx]
    rfl
  · rw [if_neg hx, if_pos (hrun.2 hq)]
    rfl
  · rw [if_neg hx, if_neg (hq ∘ hrun.1)]
    rfl

/-! ## LINE_START (R341) -/

theorem lineStart_cur (s : State) : (lineStart s).line.cur = s.line.cur.set 0 (sampleAt s.line.prev 1) := by
  simp [lineStart, State.line]

theorem lineStart_prev (s : State) :
    (lineStart s).line.prev = s.line.prev.set (s.scan.width + 1) (sampleAt s.line.prev s.scan.width) := by
  simp [lineStart, State.line]

theorem lineStart_eq (s : State) :
    lineStart s = { s with lb := s.lb.set s.comp (lineStart s).line, x := 0, fsm := .classify } := by
  simp [lineStart, State.line]

/-- Settles O42: one write into each row, each of them outside columns 0 to WIDTH - 1. -/
theorem lineStartSetsBorders : Obligations.LineStartSetsBorders := by
  intro s hh hf hcur hprev hw
  have hra : sampleAt (lineStart s).line.cur 0 = sampleAt s.line.prev 1 := by
    rw [lineStart_cur, sampleAt_set_self _ _ _ (by omega)]
  have hrd : sampleAt (lineStart s).line.prev (s.scan.width + 1) = sampleAt s.line.prev s.scan.width := by
    rw [lineStart_prev, sampleAt_set_self _ _ _ (by omega)]
  have hcur' : ∀ i, i ≠ 0 → sampleAt (lineStart s).line.cur i = sampleAt s.line.cur i := fun i hi => by
    rw [lineStart_cur, sampleAt_set_of_ne _ _ _ _ hi]
  have hprev' : ∀ i, i ≠ s.scan.width + 1 → sampleAt (lineStart s).line.prev i = sampleAt s.line.prev i :=
    fun i hi => by rw [lineStart_prev, sampleAt_set_of_ne _ _ _ _ hi]
  refine ⟨lineStart s, (step_of_no_host hh).trans (blockStep_of_lineStart hf), rfl, rfl, hra, hrd, hcur', hprev', ?_, ?_,
    lineStart_eq s⟩
  · change ((sampleAt (lineStart s).line.cur 0 : Nat) : Int) = (sampleAt (lineStart s).line.prev 1 : Nat)
    rw [hra, hprev' 1 (by omega)]
  · change ((sampleAt (lineStart s).line.prev (s.scan.width - 1 + 2) : Nat) : Int) =
      (sampleAt (lineStart s).line.prev (s.scan.width - 1 + 1) : Nat)
    rw [show s.scan.width - 1 + 2 = s.scan.width + 1 by omega, Nat.sub_add_cancel hw, hrd, hprev' _ (by omega)]

/-! ## A step runs code words (R345; 44_run_mode.md R301) -/

theorem runCode_of_done {c : ParseCtx} {s : State} {i : Instr} {r : BitReader} (h : readCode c s = .done i r) :
    runCode exec c s = exec i (s.setBrd r) := by
  simp only [runCode, h]

theorem runCode_of_raised {c : ParseCtx} {s : State} {code : ErrCode} {r : BitReader}
    (h : readCode c s = .raised code r) : runCode exec c s = .next (raiseError code (s.setBrd r)) := by
  simp only [runCode, h]

theorem runScanLoop_succ {s u : State} (h : runCode exec (.runScan s.j) s = .next u) (turns : Nat) :
    runScanLoop exec (turns + 1) s = if u.fsm = .runScan then runScanLoop exec turns u else .next u := by
  simp only [runScanLoop, h]

/-- The run counter lies inside the line, and fewer samples than `turns` are left to count. -/
def RunFits (turns : Nat) (s : State) : Prop := s.runCnt ≤ s.remaining ∧ s.remaining - s.runCnt < turns

/-- A 1 bit that does not end the run counts at least one sample. -/
theorem run1Count_pos {s : State} (h : s.runCnt < s.remaining) : 0 < s.run1Count := by
  rw [State.run1Count, Nat.one_shiftLeft]
  exact lt_min (Nat.two_pow_pos _) (Nat.sub_pos_of_lt h)

/-- A code word that leaves the run going has used up at least one turn. -/
theorem RunFits.runCode {turns : Nat} {s u : State} (hs : RunFits (turns + 1) s)
    (h : runCode exec (.runScan s.j) s = .next u) (hf : u.fsm = .runScan) : RunFits turns u := by
  obtain ⟨hle, hlt⟩ := hs
  rcases runCode_cases h with ⟨i, r, hi, h⟩ | ⟨code, r, -, rfl⟩
  · rcases readRun_form hi with rfl | ⟨n, rfl⟩
    · rcases execRun1_cases (s.setBrd r) with ⟨-, h'⟩ | ⟨hne, h'⟩ <;> cases h.symm.trans h'
      · cases hf
      · have hne : s.runCnt + s.run1Count ≠ s.remaining := hne
        have hmin : s.run1Count ≤ s.remaining - s.runCnt := min_le_right _ _
        have hpos : 0 < s.run1Count := run1Count_pos (by omega)
        change s.runCnt + s.run1Count ≤ s.remaining ∧ s.remaining - (s.runCnt + s.run1Count) < turns
        omega
    · rcases execRun0_cases n (s.setBrd r) with ⟨-, h'⟩ | ⟨-, -, h'⟩ | ⟨-, -, h'⟩ <;> cases h.symm.trans h' <;>
        cases hf
  · cases hf

/-- With enough turns the loop ends outside RUN_SCAN (log 26). -/
theorem runScanLoop_leaves (turns : Nat) {s t : State} (hs : RunFits turns s)
    (h : runScanLoop exec turns s = .next t) : t.fsm ≠ .runScan := by
  induction turns generalizing s with
  | zero => exact absurd hs.2 (Nat.not_lt_zero _)
  | succ turns ih =>
    obtain ⟨u, hu⟩ := runCode_next (.runScan s.j) s
    rw [runScanLoop_succ hu] at h
    split_ifs at h with hf
    · exact ih (hs.runCode hu hf) h
    · cases h
      exact hf

/-- Settles O41: a transition that reads bits is one `runCode`, or in RUN_SCAN a loop of them with turns to spare. -/
theorem stepRunsDecodedInstruction : Obligations.StepRunsDecodedInstruction := by
  intro s hh
  rw [step_of_no_host hh]
  refine ⟨fun c hc hf => ?_, fun hf => ⟨blockStep_of_runScan hf, fun turns u => ⟨fun i r u' hi hu' => ?_, fun code r hr =>
    ?_⟩⟩, fun hf t ht => ?_⟩
  · rw [blockStep_of_codeContext hc hf]
    exact ⟨fun i r hi => runCode_of_done hi, fun code r hr => runCode_of_raised hr⟩
  · exact runScanLoop_succ ((runCode_of_done hi).trans hu') turns
  · rw [runScanLoop_succ (runCode_of_raised hr)]
    rfl
  · have hfits : RunFits (s.remaining + 1) (s.setRunCnt 0) := ⟨Nat.zero_le _, Nat.lt_succ_self _⟩
    exact runScanLoop_leaves _ hfits ((blockStep_of_runScan hf).symm.trans ht)

end Sys2Proof.Machine
end

section
/-! # While the block waits

In IDLE, DONE and ERROR the controller does nothing by itself (45_scan_control.md R345): until START or power-on, the
host's moves reach the configuration and the world outside the block and nothing else (60_exceptions.md R384, R387). -/

namespace Sys2Proof.Machine

theorem blockStep_of_waiting {s : State} (hf : s.fsm = .idle ∨ s.fsm = .done ∨ s.fsm = .error) :
    blockStep exec s = .next s := by
  rcases hf with hf | hf | hf <;> simp only [blockStep, hf]

/-- Only the controller's state ERROR shows PHASE = ERROR. -/
theorem Fsm.eq_error_of_phase {f : Fsm} (h : f.phase = .error) : f = .error := by
  cases f with
  | error => rfl
  | _ => cases h

/-- A step of a waiting block is START, power-on, or leaves the block's own state but the configuration as it was. -/
theorem step_of_waiting {s t : State} (hf : s.fsm = .idle ∨ s.fsm = .done ∨ s.fsm = .error) (h : step s = .next t) :
    (∃ v rest, s.host = .write 0 v :: rest ∧ v.getLsbD 0 = true) ∨ s.host.head? = some .powerOn ∨
      t = { s with cfg := t.cfg, input := t.input, host := t.host, readData := t.readData } := by
  rcases step_cases h with ⟨num, v, rest, hh, -⟩ | ⟨num, rest, -, rfl⟩ | ⟨i, b, rest, -, -, rfl⟩ | ⟨rest, hh, -⟩ |
    ⟨-, hblock⟩
  · by_cases hstart : num = 0 ∧ v.getLsbD 0 = true
    · obtain ⟨rfl, hbit⟩ := hstart
      exact .inl ⟨v, rest, hh, hbit⟩
    · have hstored : num ≠ 0 ∨ v.getLsbD 0 = false := (not_and_or.1 hstart).imp_right Bool.eq_false_of_not_eq_true
      cases h.symm.trans ((hostWriteIsStoredOrStart s num v rest hh).2 hstored).1
      exact .inr (.inr rfl)
  · exact .inr (.inr rfl)
  · exact .inr (.inr rfl)
  · exact .inr (.inl (by rw [hh]; rfl))
  · cases hblock.symm.trans (blockStep_of_waiting (s := s.popHost) hf)
    exact .inr (.inr rfl)

/-- Settles O50: in ERROR the block waits, and with START and power-on shut out `step_of_waiting` leaves its frame. -/
theorem errorIsStickyUntilStart : Obligations.ErrorIsStickyUntilStart := by
  intro s t hs hp h hstart hpower
  have hf : s.fsm = .error := Fsm.eq_error_of_phase (hs.1.symm.trans hp)
  rcases step_of_waiting (.inr (.inr hf)) h with ⟨v, rest, hh, hbit⟩ | hon | hframe
  · exact absurd (hbit.symm.trans (hstart v rest hh)) (by decide)
  · exact absurd hon hpower
  · rw [hframe]
    exact ⟨hp, hf, rfl, rfl, rfl, rfl, rfl⟩

end Sys2Proof.Machine
end

section
/-! # Every scan ends

The measure `stepsLeft` bounds the transitions a running scan can still make, and every transition lowers it
(70_reset_and_hazards.md R424, R426; 45_scan_control.md R345). A line takes one transition for LINE_START, at most
three for each sample (CLASSIFY, RUN_SCAN, RUN_INTERRUPT), one for the CLASSIFY that finds it full and one for
LINE_END; FINALIZE takes one more. -/

namespace Sys2Proof.Machine

/-! ## The measure -/

/-- The lines of all components that the scan still has to decode after the current one. -/
def linesAfter (s : State) : Nat :=
  (s.scan.height - (s.y + 1)) * s.scan.comps + (s.scan.comps - (s.comp.val + 1))

/-- A bound on the transitions from the end of the current line to the end of the scan. -/
def stepsAfterLine (s : State) : Nat := linesAfter s * (3 * s.scan.width + 3) + 1

/-- A bound on the transitions to the end of the scan. -/
def stepsLeft (s : State) : Nat :=
  match s.fsm with
  | .lineStart => stepsAfterLine s + (3 * s.scan.width + 3)
  | .classify => stepsAfterLine s + (3 * s.remaining + 2)
  | .regular => stepsAfterLine s + (3 * s.remaining + 1)
  | .runScan => stepsAfterLine s + (3 * s.remaining + 1)
  | .runInterrupt => stepsAfterLine s + 3 * s.remaining
  | .lineEnd => stepsAfterLine s + 1
  | .finalize => 1
  | .idle => 0
  | .done => 0
  | .error => 0

/-- A line less costs the scan a whole line's transitions less. -/
theorem stepsAfterLine_of_lt {s t : State} (h : linesAfter t < linesAfter s) (hscan : t.scan = s.scan) :
    stepsAfterLine t + (3 * s.scan.width + 3) ≤ stepsAfterLine s := by
  have hmul := Nat.mul_le_mul_right (3 * s.scan.width + 3) h
  rw [Nat.succ_mul] at hmul
  rw [stepsAfterLine, stepsAfterLine, hscan]
  omega

/-- At LINE_START of line 0 the measure is one less than the bound of R426. -/
theorem stepsLeft_at_start {s : State} (hf : s.fsm = .lineStart) (hy : s.y = 0) (hc : s.comp = 0)
    (hh : 0 < s.scan.height) (hcomps : 0 < s.scan.comps) :
    stepsLeft s = s.scan.height * s.scan.comps * (3 * s.scan.width + 3) + 1 := by
  have hlines : linesAfter s + 1 = s.scan.height * s.scan.comps := by
    obtain ⟨h, hh⟩ := Nat.exists_eq_add_one.2 hh
    obtain ⟨c, hcomps⟩ := Nat.exists_eq_add_one.2 hcomps
    rw [linesAfter, hy, hc, hh, hcomps, Nat.succ_mul]
    exact Nat.add_assoc _ _ _
  rw [← hlines, Nat.succ_mul]
  simp only [stepsLeft, hf, stepsAfterLine]
  omega

/-! ## A run moves on -/

/-- What the code words of a run entered in state `s` lead to: X does not go back, and the run is at the end of the
line when it leaves for CLASSIFY. -/
def RunAdvances (s t : State) : Prop :=
  t.scan = s.scan ∧ linesAfter t = linesAfter s ∧ s.x ≤ t.x ∧
    (t.fsm = .runScan ∨ t.fsm = .runInterrupt ∨ t.fsm = .error ∨ t.fsm = .classify ∧ t.remaining = 0)

theorem RunAdvances.runCode {s u v : State} (hu : RunAdvances s u) (h : runCode exec (.runScan u.j) u = .next v) :
    RunAdvances s v := by
  obtain ⟨hscan, hlines, hx, hfsm⟩ := hu
  rcases runCode_cases h with ⟨i, r, hi, h⟩ | ⟨code, r, -, rfl⟩
  · rcases readRun_form hi with rfl | ⟨n, rfl⟩
    · rcases execRun1_cases (u.setBrd r) with ⟨-, h'⟩ | ⟨-, h'⟩ <;> cases h.symm.trans h'
      · have hfull : u.scan.width - (u.x + u.remaining) = 0 := by unfold State.remaining; omega
        exact ⟨hscan, hlines, Nat.le_add_right_of_le hx, .inr (.inr (.inr ⟨rfl, hfull⟩))⟩
      · exact ⟨hscan, hlines, hx, hfsm⟩
    · rcases execRun0_cases n (u.setBrd r) with ⟨-, h'⟩ | ⟨-, -, h'⟩ | ⟨-, hend, h'⟩ <;> cases h.symm.trans h'
      · exact ⟨hscan, hlines, hx, .inr (.inr (.inl rfl))⟩
      · exact ⟨hscan, hlines, Nat.le_add_right_of_le hx, .inr (.inl rfl)⟩
      · exact ⟨hscan, hlines, Nat.le_add_right_of_le hx, .inr (.inr (.inr ⟨rfl, Nat.sub_eq_zero_of_le hend⟩))⟩
  · exact ⟨hscan, hlines, hx, .inr (.inr (.inl rfl))⟩

/-- A run takes one transition, and either fills the line or leaves room for the interruption sample. -/
theorem stepsLeft_lt_of_run {s t : State} (hf : s.fsm = .runScan) (hx : s.x < s.scan.width)
    (h : blockStep exec s = .next t) : stepsLeft t < stepsLeft s := by
  rw [blockStep_of_runScan hf] at h
  have hstart : RunAdvances s (s.setRunCnt 0) := ⟨rfl, rfl, le_rfl, .inl hf⟩
  obtain ⟨hscan, hlines, hxle, hfsm⟩ := runScanLoop_keeps (fun _ _ => RunAdvances.runCode) _ _ _ hstart h
  have hleft : t.fsm ≠ .runScan := runScanLoop_leaves _ ⟨Nat.zero_le _, Nat.lt_succ_self _⟩ h
  have hafter : stepsAfterLine t = stepsAfterLine s := by rw [stepsAfterLine, stepsAfterLine, hlines, hscan]
  have hpos : 0 < s.remaining := Nat.sub_pos_of_lt hx
  have hrem : t.remaining ≤ s.remaining := by
    rw [State.remaining, hscan]
    exact Nat.sub_le_sub_left hxle _
  rcases hfsm with hf' | hf' | hf' | ⟨hf', hfull⟩
  · exact absurd hf' hleft
  · simp only [stepsLeft, hf, hf']; omega
  · simp only [stepsLeft, hf, hf']; omega
  · simp only [stepsLeft, hf, hf']; omega

/-! ## Every transition of a running scan lowers the measure -/

/-- A sample written at X leaves one less to decode. -/
theorem stepsLeft_lt_of_sample {s t : State} (hf : s.fsm = .regular ∨ s.fsm = .runInterrupt) (hx : s.x < s.scan.width)
    (hf' : t.fsm = .classify) (hafter : stepsAfterLine t = stepsAfterLine s)
    (hrem : t.remaining = s.scan.width - (s.x + 1)) : stepsLeft t < stepsLeft s := by
  have hpos : t.remaining + 1 = s.remaining := by unfold State.remaining at hrem ⊢; omega
  rcases hf with hf | hf <;> simp only [stepsLeft, hf, hf'] <;> omega

theorem linesAfter_nextComponent_lt {s : State} (hc : s.comp.val + 1 < s.scan.comps)
    (hmax : s.scan.comps ≤ Config.compMax) :
    linesAfter { s with comp := s.comp + 1, fsm := .lineStart } < linesAfter s := by
  have hnext : (s.comp + 1).val = s.comp.val + 1 := by
    rw [Fin.val_add]
    exact Nat.mod_eq_of_lt (lt_of_lt_of_le hc hmax)
  simp only [linesAfter, hnext]
  omega

theorem linesAfter_nextLine_lt {s : State} (hc : 0 < s.scan.comps) (hy : s.y + 1 < s.scan.height) :
    linesAfter (nextLine s) < linesAfter s := by
  have hrows : s.scan.height - (s.y + 1) = s.scan.height - (s.y + 1 + 1) + 1 := by omega
  simp only [linesAfter, nextLine, hrows, Nat.succ_mul, Fin.val_zero]
  omega

theorem stepsLeft_nextLine_lt {s : State} (hf : s.fsm = .lineEnd) (hc : 0 < s.scan.comps) :
    stepsLeft (nextLine s) < stepsLeft s := by
  by_cases hy : s.y + 1 < s.scan.height
  · have hlines := stepsAfterLine_of_lt (linesAfter_nextLine_lt hc hy) rfl
    have hf' : (nextLine s).fsm = .lineStart := if_pos hy
    have hscan : (nextLine s).scan = s.scan := rfl
    simp only [stepsLeft, hf, hf', hscan]
    omega
  · have hf' : (nextLine s).fsm = .finalize := if_neg hy
    simp only [stepsLeft, hf, hf', stepsAfterLine]
    omega

theorem stepsLeft_pos {s : State} (hf : s.fsm.phase = .busy) : 0 < stepsLeft s := by
  cases hfs : s.fsm <;> simp_all [Fsm.phase, stepsLeft, stepsAfterLine]

/-- A transition to a state in which no scan runs. -/
theorem stepsLeft_lt_of_end {s t : State} (hf : s.fsm.phase = .busy) (hf' : t.fsm = .done ∨ t.fsm = .error) :
    stepsLeft t < stepsLeft s := by
  rcases hf' with h | h <;> simpa only [stepsLeft, h] using stepsLeft_pos hf

/-- The transitions other than a run. -/
theorem BlockMove.stepsLeft_lt {s t : State} (h : BlockMove s t) (hb : s.fsm.phase = .busy) (hrun : s.fsm ≠ .runScan)
    (hs : PositionOk s) : stepsLeft t < stepsLeft s := by
  have ⟨hc, hmax, _, hx, _⟩ := hs
  cases h with
  | waits hf => rcases hf with hf | hf | hf <;> simp [hf, Fsm.phase] at hb
  | lineStarts hf =>
    change stepsAfterLine s + (3 * s.scan.width + 2) < _
    simp only [stepsLeft, hf]
    omega
  | lineIsFull hf =>
    change stepsAfterLine s + 1 < _
    simp only [stepsLeft, hf]
    omega
  | entersMode hf hne f hm =>
    have hf' : stepsLeft (s.setFsm f) = stepsAfterLine s + (3 * s.remaining + 1) := by rcases hm with rfl | rfl <;> rfl
    rw [hf']
    simp only [stepsLeft, hf]
    omega
  | nextComponent hf hc' =>
    have hlines := stepsAfterLine_of_lt (linesAfter_nextComponent_lt hc' hmax) rfl
    simp only [stepsLeft, hf]
    omega
  | lineAccepted hf => exact stepsLeft_nextLine_lt (s := callSink s) hf (Nat.zero_lt_of_lt hc)
  | lineRefused => exact stepsLeft_lt_of_end hb (.inr rfl)
  | raises => exact stepsLeft_lt_of_end hb (.inr rfl)
  | regularSample hf => exact stepsLeft_lt_of_sample (.inl hf) (hs.x_lt (by rw [hf]; rfl)) rfl rfl rfl
  | interruptionSample hf => exact stepsLeft_lt_of_sample (.inr hf) (hs.x_lt (by rw [hf]; rfl)) rfl rfl rfl
  | finishes => exact stepsLeft_lt_of_end hb (.inl rfl)
  | run t hf => exact absurd hf hrun

theorem stepsLeft_lt_of_blockStep {s t : State} (hb : s.fsm.phase = .busy) (hs : PositionOk s)
    (h : blockStep exec s = .next t) : stepsLeft t < stepsLeft s := by
  by_cases hf : s.fsm = .runScan
  · exact stepsLeft_lt_of_run hf (hs.x_lt (by rw [hf]; rfl)) h
  · exact (blockStep_move h).stepsLeft_lt hb hf hs

/-! ## The scan ends -/

theorem BlockMove.host {s t : State} (h : BlockMove s t) : t.host = s.host := by
  cases h with
  | run t hf ht =>
    exact runMoves_keep (Q := fun u => u.host = s.host) (fun u v huv hu => by cases huv <;> exact hu) ht rfl
  | _ => rfl

/-- A scan is running in a consistent state, and the host only waits. -/
def RunsAlone (s : State) : Prop := s.phase = .busy ∧ StatusInv s ∧ PositionInv s ∧ s.host = []

/-- One step of a running scan lowers the measure, and ends the scan or leaves it running. -/
theorem RunsAlone.step {s : State} (hs : RunsAlone s) :
    ∃ t, Machine.step s = .next t ∧ stepsLeft t < stepsLeft s ∧ (t.phase = .done ∨ t.phase = .error ∨ RunsAlone t) := by
  obtain ⟨hbusy, hstatus, hpos, hhost⟩ := hs
  obtain ⟨t, hblock⟩ := blockStep_next s
  have hstep : Machine.step s = .next t := (step_of_no_host hhost).trans hblock
  have hmove := blockStep_move hblock
  refine ⟨t, hstep, stepsLeft_lt_of_blockStep (hstatus.1.symm.trans hbusy) (hpos hbusy) hblock, ?_⟩
  rcases hmove.phase_bytepos with ⟨-, hp | hp⟩ | ⟨-, hp, -⟩
  · exact .inr (.inr ⟨hp.trans hbusy, statusInv_step hstatus hstep, stepKeepsPositionInImage s t hpos hstep,
      hmove.host.trans hhost⟩)
  · exact .inr (.inl hp)
  · exact .inl hp

theorem run_succ_of_step {s t : State} (h : step s = .next t) (n : Nat) :
    Host.Core.run Sys2Proof.core (n + 1) s = Host.Core.run Sys2Proof.core n t := by
  simp only [Host.Core.run, Sys2Proof.core, h]

/-- A running scan has ended after as many steps as its measure says, or earlier. -/
theorem RunsAlone.ends {s : State} (hs : RunsAlone s) :
    ∃ n t, n ≤ stepsLeft s ∧ Host.Core.run Sys2Proof.core n s = .next t ∧ (t.phase = .done ∨ t.phase = .error) := by
  induction hm : stepsLeft s using Nat.strong_induction_on generalizing s with
  | _ m ih =>
    obtain ⟨t, hstep, hlt, hend⟩ := hs.step
    rw [hm] at hlt
    rcases or_assoc.2 hend with hend | ht
    · exact ⟨1, t, Nat.one_le_of_lt hlt, run_succ_of_step hstep 0, hend⟩
    · obtain ⟨n, u, hn, hrun, hend⟩ := ih _ hlt ht rfl
      exact ⟨n + 1, u, Nat.lt_of_le_of_lt hn hlt, (run_succ_of_step hstep n).trans hrun, hend⟩

/-- Settles O52: a running scan ends within `stepsLeft`, which at the start of line 0 is one less than the bound. -/
theorem scanTerminatesWithinBound : Obligations.ScanTerminatesWithinBound := by
  intro s hstatus hpos hhost hf hy hc
  have hbusy : s.phase = .busy := by rw [hstatus.1, hf]; rfl
  obtain ⟨hcomps, -, -, -, -, -, hheight, -⟩ := hpos hbusy
  have hleft := stepsLeft_at_start hf hy hc (Nat.zero_lt_of_lt (hheight (by simp [hf])))
    (Nat.zero_lt_of_lt hcomps)
  obtain ⟨n, t, hn, hrun, hend⟩ := RunsAlone.ends ⟨hbusy, hstatus, hpos, hhost⟩
  exact ⟨n, t, by omega, hrun, hend⟩

end Sys2Proof.Machine
end
